-- ==== Sys2Proof/Word.lean ====
section
/-! DEFINITION. The widths of the block's words (spec/00_scope.md R5, spec/30_encoding.md R39 and R40). -/

namespace Sys2Proof

/-- A byte lane or a character lane: 8 bits (`CHAR_W`, R5). -/
abbrev Byte := BitVec 8

/-- A symbol value: 6 bits (`SYM_W`, R5). -/
abbrev Symbol := BitVec 6

/-- An entry of the reverse ROM: 7 bits `inv ‖ val` (R20, R25). -/
abbrev RevEntry := BitVec 7

/-- A beat of format `ENCB`: 27 bits (R39). -/
abbrev EncWord := BitVec 27

/-- A beat of format `DECB`: 36 bits (R40). -/
abbrev DecWord := BitVec 36

end Sys2Proof
end

