-- ==== Sys2Proof/Syntax.lean ====
section
/-! DEFINITION. The beat operations of the block, one constructor per row of spec/opcode_table.json (spec/30_encoding.md
R44 and R45), the beats as they stand on a port, and the names of what can go wrong (spec/60_exceptions.md R93, R94). -/

namespace Sys2Proof

/-- The eleven beat operations. The operands are the VALID lanes of the beat, lane 0 first (R43, R48); a lane that the
table lists as ignored is no operand (log entry 6). -/
inductive Instr where
  /-- `ENC.G3`: full group, message continues (R55). -/
  | encG3 (b0 b1 b2 : Byte)
  /-- `ENC.G3L`: full group, last of the message (R56). -/
  | encG3L (b0 b1 b2 : Byte)
  /-- `ENC.T2`: tail group of two bytes, last (R57). -/
  | encT2 (b0 b1 : Byte)
  /-- `ENC.T1`: tail group of one byte, last (R58). -/
  | encT1 (b0 : Byte)
  /-- `ENC.E0`: empty end of message (R59). -/
  | encE0
  /-- `DEC.G4`: full group, message continues (R71). -/
  | decG4 (c0 c1 c2 c3 : Byte)
  /-- `DEC.L4`: full group, last of the message (R72). -/
  | decL4 (c0 c1 c2 c3 : Byte)
  /-- `DEC.L3`: last beat with three characters (R73). -/
  | decL3 (c0 c1 c2 : Byte)
  /-- `DEC.L2`: last beat with two characters (R74). -/
  | decL2 (c0 c1 : Byte)
  /-- `DEC.L1`: last beat with one character (R75). -/
  | decL1 (c0 : Byte)
  /-- `DEC.E0`: empty message (R76). -/
  | decE0
  deriving DecidableEq, Repr

/-- The two stream ports of the block, its only way in and out (R7, R103, R104). Neither has an address (R103). -/
inductive Port where
  | enc
  | dec
  deriving DecidableEq, Repr

/-- A beat as it stands on its port: the port and the word `last ‖ cnt ‖ data` (R39, R40). -/
inductive Beat where
  | enc (w : EncWord)
  | dec (w : DecWord)
  deriving DecidableEq, Repr

/-- The codes of the block's protocol exception `Fault` (R94). No port shows a code (R94, log entry 7). -/
inductive FaultCode where
  /-- ENC beat with `last = 0` and `cnt ≠ 3`. -/
  | encPartialNotLast
  /-- DEC beat with `last = 0` and `cnt` in 0 to 3. -/
  | decPartialNotLast
  /-- DEC beat with `cnt` in 5 to 7. -/
  | decCntRange
  /-- DEC beat with `last = 1`, `cnt = 0` while `DEC_OPEN = 1`. -/
  | decEmptyClose
  deriving DecidableEq, Repr

/-- The internal causes of a `DecodeError` (R93). No port shows a cause (R93, log entry 7). -/
inductive Cause where
  | none
  | invalidCharacter
  | malformedPadding
  | badLength
  deriving DecidableEq, Repr

/-- The operations' names, without operands: the first word of a beat as it is written down (R48). -/
inductive Op where
  | encG3 | encG3L | encT2 | encT1 | encE0
  | decG4 | decL4 | decL3 | decL2 | decL1 | decE0
  deriving DecidableEq, Repr

/-- A beat as R48 writes it: a mnemonic and the lanes written after it. -/
structure Written where
  op : Op
  lanes : List Byte
  deriving DecidableEq, Repr

end Sys2Proof
end

