-- ==== Sys2Proof/WellFormed.lean ====
section
/-! DEFINITION. What makes a written beat and a message well formed (spec/30_encoding.md R48 and R49, spec/20_memory.md
R30). An `Instr` itself carries exactly its valid lanes, so no term of that type is ill formed; the checks stand where a
mistake can be written: in a beat's notation (`Written`) and in the cutting of a message into beats. -/

namespace Sys2Proof

/-- The port that an operation's beat arrives on (R44, R45). -/
def Instr.port : Instr → Port
  | .encG3 _ _ _ => .enc
  | .encG3L _ _ _ => .enc
  | .encT2 _ _ => .enc
  | .encT1 _ => .enc
  | .encE0 => .enc
  | .decG4 _ _ _ _ => .dec
  | .decL4 _ _ _ _ => .dec
  | .decL3 _ _ _ => .dec
  | .decL2 _ _ => .dec
  | .decL1 _ => .dec
  | .decE0 => .dec

/-- The `last` field of an operation's beat (R44, R45). -/
def Instr.isLast : Instr → Bool
  | .encG3 _ _ _ => false
  | .encG3L _ _ _ => true
  | .encT2 _ _ => true
  | .encT1 _ => true
  | .encE0 => true
  | .decG4 _ _ _ _ => false
  | .decL4 _ _ _ _ => true
  | .decL3 _ _ _ => true
  | .decL2 _ _ => true
  | .decL1 _ => true
  | .decE0 => true

/-- The valid lanes of an operation's beat, lane 0 first (R43). -/
def Instr.lanes : Instr → List Byte
  | .encG3 b0 b1 b2 => [b0, b1, b2]
  | .encG3L b0 b1 b2 => [b0, b1, b2]
  | .encT2 b0 b1 => [b0, b1]
  | .encT1 b0 => [b0]
  | .encE0 => []
  | .decG4 c0 c1 c2 c3 => [c0, c1, c2, c3]
  | .decL4 c0 c1 c2 c3 => [c0, c1, c2, c3]
  | .decL3 c0 c1 c2 => [c0, c1, c2]
  | .decL2 c0 c1 => [c0, c1]
  | .decL1 c0 => [c0]
  | .decE0 => []

/-- The operation of an instruction. -/
def Instr.op : Instr → Op
  | .encG3 _ _ _ => .encG3
  | .encG3L _ _ _ => .encG3L
  | .encT2 _ _ => .encT2
  | .encT1 _ => .encT1
  | .encE0 => .encE0
  | .decG4 _ _ _ _ => .decG4
  | .decL4 _ _ _ _ => .decL4
  | .decL3 _ _ _ => .decL3
  | .decL2 _ _ => .decL2
  | .decL1 _ => .decL1
  | .decE0 => .decE0

/-- The `cnt` field that selects an operation, the number of its valid lanes (R44, R45). -/
def Op.cnt : Op → Nat
  | .encG3 => 3
  | .encG3L => 3
  | .encT2 => 2
  | .encT1 => 1
  | .encE0 => 0
  | .decG4 => 4
  | .decL4 => 4
  | .decL3 => 3
  | .decL2 => 2
  | .decL1 => 1
  | .decE0 => 0

/-- R48: "The number of lanes written must equal the operation's `cnt`." -/
def Written.wellFormed (b : Written) : Bool := b.lanes.length == b.op.cnt

/-- An instruction is well formed when its beat, written down, is. It holds of every instruction: the type allows no
other operands (Sys2Proof/Laws/Syntax.lean, `wellFormed_instr`). -/
def Instr.wellFormed (i : Instr) : Bool := Written.wellFormed { op := i.op, lanes := i.lanes }

/-- R30, R110: the beats of one message on a port. Every beat but the last is a full group with `last = 0`; the last one
has `last = 1`. On the DEC port an empty closing beat is allowed only alone (R76). -/
def wellFramed (p : Port) : List Instr → Bool
  | [] => false
  | [i] => i.port == p && i.isLast
  | i :: j :: rest =>
    i.port == p && !i.isLast && wellFramed p (j :: rest) &&
      !(rest.isEmpty && j == .decE0)

end Sys2Proof
end

