-- ==== Sys2Proof/Decode.lean ====
section
/-! DEFINITION. From a beat's word to its operation and back (spec/30_encoding.md R39, R40, R44 to R48), total on all
words and refusing an illegal one by its fault code (R46), and the reading of spec/opcode_table.json's words. -/

namespace Sys2Proof

/-! ## The fields of an ENC beat (R39) -/

/-- Bits 26:24 of an ENC beat, `last ‖ cnt`: the bits that select (R44). -/
def encSelect (w : EncWord) : BitVec 3 := w.extractLsb' 24 3

/-- The field `last` of an ENC beat, bit 26. -/
def encLast (w : EncWord) : Bool := w.getLsbD 26

/-- The field `cnt` of an ENC beat, bits 25:24. -/
def encCnt (w : EncWord) : BitVec 2 := w.extractLsb' 24 2

/-- Byte lane 0 of an ENC beat, bits 23:16. -/
def encB0 (w : EncWord) : Byte := w.extractLsb' 16 8

/-- Byte lane 1 of an ENC beat, bits 15:8. -/
def encB1 (w : EncWord) : Byte := w.extractLsb' 8 8

/-- Byte lane 2 of an ENC beat, bits 7:0. -/
def encB2 (w : EncWord) : Byte := w.extractLsb' 0 8

/-! ## The fields of a DEC beat (R40) -/

/-- Bits 35:32 of a DEC beat, `last ‖ cnt`: the bits that select (R45). -/
def decSelect (w : DecWord) : BitVec 4 := w.extractLsb' 32 4

/-- The field `last` of a DEC beat, bit 35. -/
def decLast (w : DecWord) : Bool := w.getLsbD 35

/-- The field `cnt` of a DEC beat, bits 34:32. -/
def decCnt (w : DecWord) : BitVec 3 := w.extractLsb' 32 3

/-- Character lane 0 of a DEC beat, bits 31:24. -/
def decC0 (w : DecWord) : Byte := w.extractLsb' 24 8

/-- Character lane 1 of a DEC beat, bits 23:16. -/
def decC1 (w : DecWord) : Byte := w.extractLsb' 16 8

/-- Character lane 2 of a DEC beat, bits 15:8. -/
def decC2 (w : DecWord) : Byte := w.extractLsb' 8 8

/-- Character lane 3 of a DEC beat, bits 7:0. -/
def decC3 (w : DecWord) : Byte := w.extractLsb' 0 8

/-! ## Decoding -/

/-- The ENC operation map of R44. The three other values of bits 26:24 are illegal (R46). -/
def decodeEnc (w : EncWord) : Except FaultCode Instr :=
  if encSelect w = 0b011#3 then .ok (.encG3 (encB0 w) (encB1 w) (encB2 w))
  else if encSelect w = 0b111#3 then .ok (.encG3L (encB0 w) (encB1 w) (encB2 w))
  else if encSelect w = 0b110#3 then .ok (.encT2 (encB0 w) (encB1 w))
  else if encSelect w = 0b101#3 then .ok (.encT1 (encB0 w))
  else if encSelect w = 0b100#3 then .ok .encE0
  else .error .encPartialNotLast

/-- The DEC operation map of R45. Of the ten other values of bits 35:32, those whose `cnt` is 5, 6 or 7 are refused as
`DEC_F_CNT_RANGE` and the others as `DEC_F_PARTIAL_NOT_LAST` (R46, R77). -/
def decodeDec (w : DecWord) : Except FaultCode Instr :=
  if decSelect w = 0b0100#4 then .ok (.decG4 (decC0 w) (decC1 w) (decC2 w) (decC3 w))
  else if decSelect w = 0b1100#4 then .ok (.decL4 (decC0 w) (decC1 w) (decC2 w) (decC3 w))
  else if decSelect w = 0b1011#4 then .ok (.decL3 (decC0 w) (decC1 w) (decC2 w))
  else if decSelect w = 0b1010#4 then .ok (.decL2 (decC0 w) (decC1 w))
  else if decSelect w = 0b1001#4 then .ok (.decL1 (decC0 w))
  else if decSelect w = 0b1000#4 then .ok .decE0
  else if 4#3 < decCnt w then .error .decCntRange
  else .error .decPartialNotLast

/-- The operation of a beat: only the port and the selecting bits decide (R47). -/
def decode : Beat → Except FaultCode Instr
  | .enc w => decodeEnc w
  | .dec w => decodeDec w

/-! ## Encoding -/

/-- The word of an operation (R39, R40, R44, R45), the lanes beyond `cnt` written as 0x00 (R48). -/
def encode : Instr → Beat
  | .encG3 b0 b1 b2 => .enc (0b011#3 ++ b0 ++ b1 ++ b2)
  | .encG3L b0 b1 b2 => .enc (0b111#3 ++ b0 ++ b1 ++ b2)
  | .encT2 b0 b1 => .enc (0b110#3 ++ b0 ++ b1 ++ 0x00#8)
  | .encT1 b0 => .enc (0b101#3 ++ b0 ++ 0x00#8 ++ 0x00#8)
  | .encE0 => .enc (0b100#3 ++ 0x00#8 ++ 0x00#8 ++ 0x00#8)
  | .decG4 c0 c1 c2 c3 => .dec (0b0100#4 ++ c0 ++ c1 ++ c2 ++ c3)
  | .decL4 c0 c1 c2 c3 => .dec (0b1100#4 ++ c0 ++ c1 ++ c2 ++ c3)
  | .decL3 c0 c1 c2 => .dec (0b1011#4 ++ c0 ++ c1 ++ c2 ++ 0x00#8)
  | .decL2 c0 c1 => .dec (0b1010#4 ++ c0 ++ c1 ++ 0x00#8 ++ 0x00#8)
  | .decL1 c0 => .dec (0b1001#4 ++ c0 ++ 0x00#8 ++ 0x00#8 ++ 0x00#8)
  | .decE0 => .dec (0b1000#4 ++ 0x00#8 ++ 0x00#8 ++ 0x00#8 ++ 0x00#8)

/-- Bring a beat to the form R48 assembles: the lanes that its operation ignores become 0x00, every other bit stays. -/
def clearIgnored : Beat → Beat
  | .enc w =>
    if encSelect w = 0b110#3 then .enc (w &&& 0x7FFFF00#27)
    else if encSelect w = 0b101#3 then .enc (w &&& 0x7FF0000#27)
    else if encSelect w = 0b100#3 then .enc (w &&& 0x7000000#27)
    else .enc w
  | .dec w =>
    if decSelect w = 0b1011#4 then .dec (w &&& 0xFFFFFFF00#36)
    else if decSelect w = 0b1010#4 then .dec (w &&& 0xFFFFF0000#36)
    else if decSelect w = 0b1001#4 then .dec (w &&& 0xFFF000000#36)
    else if decSelect w = 0b1000#4 then .dec (w &&& 0xF00000000#36)
    else .dec w

/-- Read a beat written as R48 writes it. A number of lanes other than the operation's `cnt` gives nothing. -/
def Written.instr? : Written → Option Instr
  | ⟨.encG3, [b0, b1, b2]⟩ => some (.encG3 b0 b1 b2)
  | ⟨.encG3L, [b0, b1, b2]⟩ => some (.encG3L b0 b1 b2)
  | ⟨.encT2, [b0, b1]⟩ => some (.encT2 b0 b1)
  | ⟨.encT1, [b0]⟩ => some (.encT1 b0)
  | ⟨.encE0, []⟩ => some .encE0
  | ⟨.decG4, [c0, c1, c2, c3]⟩ => some (.decG4 c0 c1 c2 c3)
  | ⟨.decL4, [c0, c1, c2, c3]⟩ => some (.decL4 c0 c1 c2 c3)
  | ⟨.decL3, [c0, c1, c2]⟩ => some (.decL3 c0 c1 c2)
  | ⟨.decL2, [c0, c1]⟩ => some (.decL2 c0 c1)
  | ⟨.decL1, [c0]⟩ => some (.decL1 c0)
  | ⟨.decE0, []⟩ => some .decE0
  | _ => none

/-- Assemble a written beat to its word (R48). -/
def assemble (b : Written) : Option Beat := b.instr?.map encode

/-! ## Codes (R93, R94) -/

/-- The port whose beat raises the fault. -/
def FaultCode.port : FaultCode → Port
  | .encPartialNotLast => .enc
  | .decPartialNotLast => .dec
  | .decCntRange => .dec
  | .decEmptyClose => .dec

/-- The number of a fault code (R94). -/
def FaultCode.number : FaultCode → Nat
  | .encPartialNotLast => 1
  | .decPartialNotLast => 1
  | .decCntRange => 2
  | .decEmptyClose => 3

/-- The number of a cause (R93). -/
def Cause.number : Cause → Nat
  | .none => 0
  | .invalidCharacter => 1
  | .malformedPadding => 2
  | .badLength => 3

/-! ## The words of spec/opcode_table.json -/

/-- The beat that the table's number `w` on `nbits` bits stands for: a row of at most 32 bits (27, in whole bytes 32) is
an ENC beat, a longer one (36, in whole bytes 40) a DEC beat; a number that needs more wires than the port has is no beat
(log entry 10). -/
def beatOfTableWord (nbits w : Nat) : Option Beat :=
  if nbits ≤ 32 then
    if w < 2 ^ 27 then some (.enc (BitVec.ofNat 27 w)) else none
  else if w < 2 ^ 36 then some (.dec (BitVec.ofNat 36 w)) else none

/-- The operation that the decoder reads from a word of spec/opcode_table.json. -/
def decodeTableWord (nbits w : Nat) : Option Instr :=
  match beatOfTableWord nbits w with
  | none => none
  | some b =>
    match decode b with
    | .ok i => some i
    | .error _ => none

end Sys2Proof
end

