-- ==== Sys2Proof/Config.lean ====
section
/-! DEFINITION. What an implementation of the block fixes (spec/00_scope.md R5): the one open parameter a model takes,
`LEN_W`, and the fixed sizes of a group. `LAT` is left out: no rule depends on it (log entry 4). -/

namespace Sys2Proof

/-- The implementation parameters of a block. -/
structure Config where
  /-- `LEN_W`, the width of the counters `ENC_OLEN` and `DEC_OLEN` and of `total` (R5, D12). -/
  lenW : Nat
  deriving DecidableEq, Repr

/-- The spec's default: `LEN_W` = 32 (R5). -/
def Config.standard : Config := { lenW := 32 }

/-- R5: `LEN_W` is any integer that is at least 3. -/
abbrev Config.Allowed (c : Config) : Prop := 3 ≤ c.lenW

/-- The number of values of a `LEN_W`-bit counter. -/
abbrev Config.modulus (c : Config) : Nat := 2 ^ c.lenW

/-- `GROUP_BYTES` (R5): bytes of a full group. -/
abbrev Config.groupBytes : Nat := 3

/-- `GROUP_CHARS` (R5): characters of a full group. -/
abbrev Config.groupChars : Nat := 4

end Sys2Proof
end

