-- ==== Sys2Proof/Machine/State.lean ====
section
/-! DEFINITION. The state of the block (spec/10_state.md R8): the six registers, and beside them the model's own fields,
the host's cycles to come and the responses produced. Plain data throughout. -/

namespace Sys2Proof.Machine

/-- Format `ENCR`: the response to an ENC beat (R41). `total` is a `LEN_W`-bit number. -/
structure EncResponse where
  /-- four character lanes, lane 0 most significant -/
  q : BitVec 32
  /-- number of valid character lanes: 4 or 0 -/
  qcnt : BitVec 3
  /-- the beat ended a message -/
  done : Bool
  /-- characters produced in this message so far, modulo 2^LEN_W -/
  total : Nat
  /-- the beat was illegal -/
  fault : Bool
  deriving DecidableEq, Repr

/-- Format `DECR`: the response to a DEC beat (R42). `total` is a `LEN_W`-bit number. -/
structure DecResponse where
  /-- three byte lanes, lane 0 most significant -/
  q : BitVec 24
  /-- number of valid byte lanes, 0 to 3 -/
  qcnt : BitVec 2
  /-- the beat ended a message -/
  done : Bool
  /-- a decode failure has been detected in this message -/
  fail : Bool
  /-- bytes produced in this message so far, modulo 2^LEN_W -/
  total : Nat
  /-- the beat was illegal -/
  fault : Bool
  deriving DecidableEq, Repr

/-- What the host drives in one clock cycle (R15, R16, R17): the reset level and, on each port, `none` for `valid = 0`
or the beat's word for `valid = 1`. No address and no register access is driven: the block is a device with two stream
ports and nothing memory-mapped (R103). -/
structure Cycle where
  rst : Bool
  enc : Option EncWord
  dec : Option DecWord
  deriving DecidableEq, Repr

/-- The state. The six registers of R8, and the model's own fields `cfg` (log entry 3), `input` (log entry 1), `encOut`
and `decOut` (log entry 2). -/
structure State where
  /-- the implementation parameters (R5); no step changes them -/
  cfg : Config
  /-- `ENC_OLEN`: characters produced in the open ENC message, modulo 2^LEN_W -/
  encOlen : Nat
  /-- `ENC_FAULT`: an illegal ENC beat was accepted -/
  encFault : Bool
  /-- `DEC_OLEN`: bytes produced in the open DEC message, modulo 2^LEN_W -/
  decOlen : Nat
  /-- `DEC_OPEN`: a DEC beat with `last = 0` was accepted since the last end of message -/
  decOpen : Bool
  /-- `DEC_ERR`: a decode failure was detected in an earlier beat of the open message -/
  decErr : Bool
  /-- `DEC_FAULT`: an illegal DEC beat was accepted -/
  decFault : Bool
  /-- the clock cycles that the host drives, next one first -/
  input : List Cycle
  /-- the ENC responses produced, oldest first -/
  encOut : List EncResponse
  /-- the DEC responses produced, oldest first -/
  decOut : List DecResponse
  deriving DecidableEq, Repr

/-- Reasons for the whole machine to stop with a fault: there are none. The block's own `Fault` (R94) stops ONE PORT and
is a next state (`Machine/Ops.lean`, `raiseFault`); every misuse by the host has an outcome that the spec describes
(R110). -/
inductive Fault where
  deriving DecidableEq, Repr

/-- Reasons to give an instruction no meaning. -/
inductive Refusal where
  /-- Raised by `exec` for an instruction that has no meaning yet: none, at present. Safe: the run stops. -/
  | notModelled (mnemonic : String)
  deriving DecidableEq, Repr

/-- The state right after reset, `S0` of R19: every register 0. The model's own fields: the default parameters, no cycle
to come, no response yet (log entries 1, 2, 3). -/
def State.reset : State where
  cfg := Config.standard
  encOlen := 0
  encFault := false
  decOlen := 0
  decOpen := false
  decErr := false
  decFault := false
  input := []
  encOut := []
  decOut := []

end Sys2Proof.Machine
end

