-- ==== Sys2Proof/Machine/Flags.lean ====
section
/-! DEFINITION. The one-bit flags (spec/10_state.md R11): the framing check that sets a fault bit (spec/60_exceptions.md
R94, R97), what becomes of `DEC_ERR` and `DEC_OPEN` (spec/41_decoder.md R70), and the level outputs made of flags
(spec/10_state.md R16, R17). -/

namespace Sys2Proof.Machine

/-- The framing check of an ENC beat (R54, R60). -/
def encFraming (last : Bool) (cnt : BitVec 2) : Option FaultCode :=
  if !last && cnt != 3#2 then some .encPartialNotLast else none

/-- The framing check of a DEC beat, made before any character is looked at (R70, R77). `DEC_F_CNT_RANGE` comes before
`DEC_F_PARTIAL_NOT_LAST` (R97). -/
def decFraming (last : Bool) (cnt : BitVec 3) (isOpen : Bool) : Option FaultCode :=
  if 4#3 < cnt then some .decCntRange
  else if !last && cnt != 4#3 then some .decPartialNotLast
  else if last && cnt == 0#3 && isOpen then some .decEmptyClose
  else none

/-- `DEC_ERR` after a legal DEC beat (R70 part 3): cleared by the end of the message, else the beat's verdict. -/
def decErrAfter (last err : Bool) : Bool := !last && err

/-- `DEC_OPEN` after a legal DEC beat (R70 part 3). -/
def decOpenAfter (last : Bool) : Bool := !last

/-- Output `enc_ready` (R16, R18). -/
def encReady (rst : Bool) (s : State) : Bool := !rst && !s.encFault

/-- Output `dec_ready` (R17, R18). -/
def decReady (rst : Bool) (s : State) : Bool := !rst && !s.decFault

/-- Output `enc_fault` (R16): the register, or-ed with the `fault` field of the response present in the cycle. -/
def encFaultOut (s : State) (r : Option EncResponse) : Bool := s.encFault || r.any (·.fault)

/-- Output `dec_fault` (R17). -/
def decFaultOut (s : State) (r : Option DecResponse) : Bool := s.decFault || r.any (·.fault)

end Sys2Proof.Machine
end

