-- ==== Sys2Proof/Machine/Ops.lean ====
section
/-! DEFINITION. The named operations over the state: counting, giving a response, taking a `Fault` (one shared operation,
spec/60_exceptions.md R94), and the way out of it, reset (spec/70_reset_and_hazards.md R107). -/

namespace Sys2Proof.Machine

/-- The outcome of one port's part of a step. -/
abbrev Result := Host.Outcome State Fault Refusal

/-- Go on with `f` after a next state; a stop stays a stop. -/
def andThen (o : Result) (f : State → Result) : Result :=
  match o with
  | .next s => f s
  | .fault r => .fault r
  | .refused r => .refused r

/-- Unsigned addition on a `LEN_W`-bit counter: `(a + n) mod 2^LEN_W`, no flag, no fault (R6, R91). -/
def countUp (c : Config) (a n : Nat) : Nat := (a + n) % c.modulus

/-- An ENC response leaves the block, after those before it (R18, R34). -/
def State.giveEnc (s : State) (r : EncResponse) : State := { s with encOut := s.encOut ++ [r] }

/-- A DEC response leaves the block, after those before it (R18, R34). -/
def State.giveDec (s : State) (r : DecResponse) : State := { s with decOut := s.decOut ++ [r] }

/-- Write `ENC_OLEN`. -/
def State.setEncOlen (s : State) (v : Nat) : State := { s with encOlen := v }

/-- Write the per-message registers of the DEC port. -/
def State.setDecMessage (s : State) (olen : Nat) (err isOpen : Bool) : State :=
  { s with decOlen := olen, decErr := err, decOpen := isOpen }

/-- The response to an illegal ENC beat: `fault = 1`, every other field 0 (R54, R94). -/
def encFaultResponse : EncResponse :=
  { q := 0, qcnt := 0, done := false, total := 0, fault := true }

/-- The response to an illegal DEC beat: `fault = 1`, every other field 0 (R70, R94). -/
def decFaultResponse : DecResponse :=
  { q := 0, qcnt := 0, done := false, fail := false, total := 0, fault := true }

/-- `raise Fault(code)` (R94): the port's fault bit becomes 1, the beat's response says so, nothing else changes. The
effect is the same for every code of a port. -/
def raiseFault (code : FaultCode) (s : State) : State :=
  match code.port with
  | .enc => State.giveEnc { s with encFault := true } encFaultResponse
  | .dec => State.giveDec { s with decFault := true } decFaultResponse

/-- The port accepts no beat once its fault bit is set (R18, R94). -/
def portFaulted (p : Port) (s : State) : Bool :=
  match p with
  | .enc => s.encFault
  | .dec => s.decFault

/-- A beat that is illegal by its selecting bits is presented: the port takes the Fault, or, when it is out of service,
does not accept the beat (R18, R60, R77). -/
def illegalBeat (code : FaultCode) (s : State) : State :=
  if portFaulted code.port s then s else raiseFault code s

/-- Reset (R107, R19): all six registers take their reset values, whatever they held. The parameters, the host's cycles
and the responses already produced stay (R108). -/
def resetRegisters (s : State) : State :=
  { s with
    encOlen := 0
    encFault := false
    decOlen := 0
    decOpen := false
    decErr := false
    decFault := false }

end Sys2Proof.Machine
end

