-- ==== Sys2Proof/Machine/Rom.lean ====
section
/-! DEFINITION. The two read-only ROMs, copied from the tables of spec/20_memory.md R22 and R25, and the padding character
(R23). They are constants: nothing writes them (R28), and every address is populated (R20, R32). -/

namespace Sys2Proof.Machine

/-- `PAD_CHAR`, the character `.` (R23). -/
def padChar : Byte := 0x2E#8

/-- Symbols 0 to 25: `A` to `Z`. -/
def fwdUpper : List Byte :=
  [0x41, 0x42, 0x43, 0x44, 0x45, 0x46, 0x47, 0x48, 0x49, 0x4A, 0x4B, 0x4C, 0x4D,
   0x4E, 0x4F, 0x50, 0x51, 0x52, 0x53, 0x54, 0x55, 0x56, 0x57, 0x58, 0x59, 0x5A]

/-- Symbols 26 to 51: `a` to `z`. -/
def fwdLower : List Byte :=
  [0x61, 0x62, 0x63, 0x64, 0x65, 0x66, 0x67, 0x68, 0x69, 0x6A, 0x6B, 0x6C, 0x6D,
   0x6E, 0x6F, 0x70, 0x71, 0x72, 0x73, 0x74, 0x75, 0x76, 0x77, 0x78, 0x79, 0x7A]

/-- Symbols 52 to 63: `0` to `9`, `-`, `_`. -/
def fwdRest : List Byte :=
  [0x30, 0x31, 0x32, 0x33, 0x34, 0x35, 0x36, 0x37, 0x38, 0x39, 0x2D, 0x5F]

/-- The forward ROM `FWD`: 64 entries (R22). -/
def fwdRom : List Byte := fwdUpper ++ fwdLower ++ fwdRest

/-- `FWD[s]` (R6, R22). The table has an entry for every symbol (`fwdRom_length`), so the default is never read. -/
def fwd (s : Symbol) : Byte := fwdRom.getD s.toNat 0x00#8

/-- `REV_INVALID`, the entry `inv = 1`, `val = 0` (R5, R25). -/
def revInvalid : RevEntry := 0x40#7

/-- A row of sixteen invalid entries of `REV`. -/
def revBlank : List RevEntry := List.replicate 16 revInvalid

/-- Row 0x2_ of `REV`: only `-` (0x2D) is a data character. -/
def revRow2 : List RevEntry :=
  [0x40, 0x40, 0x40, 0x40, 0x40, 0x40, 0x40, 0x40, 0x40, 0x40, 0x40, 0x40, 0x40, 0x3E, 0x40, 0x40]

/-- Row 0x3_ of `REV`: the digits. -/
def revRow3 : List RevEntry :=
  [0x34, 0x35, 0x36, 0x37, 0x38, 0x39, 0x3A, 0x3B, 0x3C, 0x3D, 0x40, 0x40, 0x40, 0x40, 0x40, 0x40]

/-- Row 0x4_ of `REV`: `A` to `O`. -/
def revRow4 : List RevEntry :=
  [0x40, 0x00, 0x01, 0x02, 0x03, 0x04, 0x05, 0x06, 0x07, 0x08, 0x09, 0x0A, 0x0B, 0x0C, 0x0D, 0x0E]

/-- Row 0x5_ of `REV`: `P` to `Z`, and `_` (0x5F). -/
def revRow5 : List RevEntry :=
  [0x0F, 0x10, 0x11, 0x12, 0x13, 0x14, 0x15, 0x16, 0x17, 0x18, 0x19, 0x40, 0x40, 0x40, 0x40, 0x3F]

/-- Row 0x6_ of `REV`: `a` to `o`. -/
def revRow6 : List RevEntry :=
  [0x40, 0x1A, 0x1B, 0x1C, 0x1D, 0x1E, 0x1F, 0x20, 0x21, 0x22, 0x23, 0x24, 0x25, 0x26, 0x27, 0x28]

/-- Row 0x7_ of `REV`: `p` to `z`. -/
def revRow7 : List RevEntry :=
  [0x29, 0x2A, 0x2B, 0x2C, 0x2D, 0x2E, 0x2F, 0x30, 0x31, 0x32, 0x33, 0x40, 0x40, 0x40, 0x40, 0x40]

/-- Rows 0x0_ to 0x7_ of `REV`. -/
def revLowRows : List RevEntry :=
  revBlank ++ revBlank ++ revRow2 ++ revRow3 ++ revRow4 ++ revRow5 ++ revRow6 ++ revRow7

/-- Rows 0x8_ to 0xF_ of `REV`: no code from 0x80 on is a data character. -/
def revHighRows : List RevEntry :=
  revBlank ++ revBlank ++ revBlank ++ revBlank ++ revBlank ++ revBlank ++ revBlank ++ revBlank

/-- The reverse ROM `REV`: 256 entries (R25). -/
def revRom : List RevEntry := revLowRows ++ revHighRows

/-- `REV[c]` (R6, R25). The table has an entry for every code (`revRom_length`), so the default is never read. -/
def rev (c : Byte) : RevEntry := revRom.getD c.toNat revInvalid

/-- The bit `inv` of a `REV` entry, bit 6 (R20). -/
def RevEntry.inv (r : RevEntry) : Bool := r.getLsbD 6

/-- The field `val` of a `REV` entry, bits 5:0 (R20). -/
def RevEntry.val (r : RevEntry) : Symbol := r.extractLsb' 0 6

end Sys2Proof.Machine
end

