-- ==== Sys2Proof/Machine/Operands.lean ====
section
/-! DEFINITION. Operand assembly and the slicing of a group: masking of the lanes beyond `cnt` (spec/30_encoding.md R43),
`split24` (spec/40_encoder.md R52), `pack24` and `classify` (spec/41_decoder.md R66, R67), and the lanes of a response
(spec/20_memory.md R29). -/

namespace Sys2Proof.Machine

/-- R43: a lane that is not valid is replaced by 0x00. -/
def laneOrZero (valid : Bool) (b : Byte) : Byte := if valid then b else 0x00#8

/-- The 24-bit group `g = b0' ‖ b1' ‖ b2'` of an ENC beat (R43). -/
def encOperand (b0 b1 b2 : Byte) (cnt : BitVec 2) : BitVec 24 :=
  laneOrZero (1#2 ≤ cnt) b0 ++ laneOrZero (2#2 ≤ cnt) b1 ++ laneOrZero (cnt == 3#2) b2

/-- `split24` (R52): the four symbols of a group, most significant first. -/
def split24 (g : BitVec 24) : Symbol × Symbol × Symbol × Symbol :=
  (g.extractLsb' 18 6, g.extractLsb' 12 6, g.extractLsb' 6 6, g.extractLsb' 0 6)

/-- `pack24` (R67): four symbol values, the first most significant. -/
def pack24 (v0 v1 v2 v3 : Symbol) : BitVec 24 := v0 ++ v1 ++ v2 ++ v3

/-- What the decoder finds in one character lane (R66). -/
structure LaneClass where
  /-- the lane holds the padding character -/
  pad : Bool
  /-- the lane holds an invalid character -/
  bad : Bool
  /-- the symbol value; 0 when the lane holds no data character -/
  val : Symbol
  deriving DecidableEq, Repr

/-- `classify` (R66): one read of `REV` and one comparison with `PAD_CHAR`, which takes precedence. -/
def classify (c : Byte) : LaneClass :=
  let pad := c == padChar
  { pad := pad, bad := RevEntry.inv (rev c) && !pad, val := RevEntry.val (rev c) }

/-- A character that is one of the 64 entries of `FWD` (spec/00_scope.md, glossary). -/
def isDataChar (c : Byte) : Bool := !RevEntry.inv (rev c)

/-- The four lanes of an ENC response's `q`, lane 0 first (R29, R61). -/
def lanes32 (q : BitVec 32) : List Byte :=
  [q.extractLsb' 24 8, q.extractLsb' 16 8, q.extractLsb' 8 8, q.extractLsb' 0 8]

/-- The three lanes of a DEC response's `q`, lane 0 first (R29, R79). -/
def lanes24 (q : BitVec 24) : List Byte :=
  [q.extractLsb' 16 8, q.extractLsb' 8 8, q.extractLsb' 0 8]

end Sys2Proof.Machine
end

