-- ==== Sys2Proof/Machine/Padding.lean ====
section
/-! DEFINITION. The padding validator `PV` (spec/42_padding_validator.md R83, R84): a pure function of `last`, `cnt` and
the four padding flags. -/

namespace Sys2Proof.Machine

/-- The outputs of `PV` (R83). -/
structure PvOut where
  /-- trailing padding characters of a legal final group: 0, 1 or 2 -/
  npad : BitVec 2
  /-- the padding is malformed -/
  padErr : Bool
  /-- the message's length is not a multiple of 4 -/
  lenErr : Bool
  deriving DecidableEq, Repr

/-- A lane's flag, masked off when the lane is not valid: `x and (i < cnt)` (R68, R84). -/
def inLane (i cnt : BitVec 3) (x : Bool) : Bool := x && decide (i < cnt)

/-- R84: a last beat with 1, 2 or 3 characters has a wrong length. -/
def lengthError (last : Bool) (cnt : BitVec 3) : Bool :=
  last && (cnt == 1#3 || cnt == 2#3 || cnt == 3#3)

/-- `pv` (R84). -/
def pv (last : Bool) (cnt : BitVec 3) (pad0 pad1 pad2 pad3 : Bool) : PvOut :=
  let m0 := inLane 0#3 cnt pad0
  let m1 := inLane 1#3 cnt pad1
  let m2 := inLane 2#3 cnt pad2
  let m3 := inLane 3#3 cnt pad3
  if last && cnt == 4#3 then
    match m0, m1, m2, m3 with
    | false, false, false, false => { npad := 0, padErr := false, lenErr := lengthError last cnt }
    | false, false, false, true => { npad := 1, padErr := false, lenErr := lengthError last cnt }
    | false, false, true, true => { npad := 2, padErr := false, lenErr := lengthError last cnt }
    | _, _, _, _ => { npad := 0, padErr := true, lenErr := lengthError last cnt }
  else
    { npad := 0, padErr := m0 || m1 || m2 || m3, lenErr := lengthError last cnt }

end Sys2Proof.Machine
end

