-- ==== Sys2Proof/Machine/Decoder.lean ====
section
/-! DEFINITION. The decoder datapath `DEC` (spec/41_decoder.md): the group function R68, the port's step R70, and the
meanings of the six DEC operations R71 to R76. -/

namespace Sys2Proof.Machine

/-- What the decoder finds in a group (R68). -/
structure DecGroup where
  ok : Bool
  cause : Cause
  /-- bytes of the group -/
  nb : BitVec 2
  /-- three byte lanes, those beyond `nb` zero -/
  q : BitVec 24
  deriving DecidableEq, Repr

/-- The name of a failure, the first that applies (R68, R97). -/
def decCause (invErr lenErr padErr : Bool) : Cause :=
  if invErr then .invalidCharacter
  else if lenErr then .badLength
  else if padErr then .malformedPadding
  else .none

/-- The bytes `q0 ‖ q1 ‖ q2` of a packed group with `nb` of them valid (R68). -/
def decBytes (w : BitVec 24) (nb : BitVec 2) : BitVec 24 :=
  laneOrZero (1#2 ≤ nb) (w.extractLsb' 16 8) ++ laneOrZero (2#2 ≤ nb) (w.extractLsb' 8 8) ++
    laneOrZero (nb == 3#2) (w.extractLsb' 0 8)

/-- `dec_group` (R68). Lanes with index at least `cnt` are neither classified nor looked at by `PV` (R43). -/
def decGroup (last : Bool) (cnt : BitVec 3) (c0 c1 c2 c3 : Byte) : DecGroup :=
  let l0 := classify c0
  let l1 := classify c1
  let l2 := classify c2
  let l3 := classify c3
  let invErr := inLane 0#3 cnt l0.bad || inLane 1#3 cnt l1.bad || inLane 2#3 cnt l2.bad || inLane 3#3 cnt l3.bad
  let p := pv last cnt l0.pad l1.pad l2.pad l3.pad
  let w := pack24 l0.val l1.val l2.val l3.val
  let nb := if cnt = 4#3 then 3#2 - p.npad else 0#2
  { ok := !(invErr || p.padErr || p.lenErr)
    cause := decCause invErr p.lenErr p.padErr
    nb := nb
    q := decBytes w nb }

/-- The response to a legal DEC beat (R70 part 2), a function of the beat and of `DEC_ERR` and `DEC_OLEN`. -/
def decResponse (last : Bool) (cnt : BitVec 3) (c0 c1 c2 c3 : Byte) (s : State) : DecResponse :=
  let g := decGroup last cnt c0 c1 c2 c3
  let err := s.decErr || !g.ok
  let qcnt := if err then 0#2 else g.nb
  let q := if err then 0x000000#24 else g.q
  { q := q, qcnt := qcnt, done := last, fail := err, total := countUp s.cfg s.decOlen qcnt.toNat, fault := false }

/-- `dec_step` (R70) on the fields of a beat. Where the port is out of service the beat is not accepted and has no effect
(R18). -/
def decStep (last : Bool) (cnt : BitVec 3) (c0 c1 c2 c3 : Byte) (s : State) : Result :=
  if s.decFault then .next s
  else
    match decFraming last cnt s.decOpen with
    | some code => .next (raiseFault code s)
    | none =>
      let r := decResponse last cnt c0 c1 c2 c3 s
      let olen := if last then 0 else r.total
      .next ((s.setDecMessage olen (decErrAfter last r.fail) (decOpenAfter last)).giveDec r)

/-- `DEC.G4` (R71). -/
def execDecG4 (c0 c1 c2 c3 : Byte) (s : State) : Result := decStep false 4#3 c0 c1 c2 c3 s

/-- `DEC.L4` (R72). -/
def execDecL4 (c0 c1 c2 c3 : Byte) (s : State) : Result := decStep true 4#3 c0 c1 c2 c3 s

/-- `DEC.L3` (R73). Lane 3 is ignored: 0x00 stands for it. -/
def execDecL3 (c0 c1 c2 : Byte) (s : State) : Result := decStep true 3#3 c0 c1 c2 0x00#8 s

/-- `DEC.L2` (R74). Lanes 2 and 3 are ignored. -/
def execDecL2 (c0 c1 : Byte) (s : State) : Result := decStep true 2#3 c0 c1 0x00#8 0x00#8 s

/-- `DEC.L1` (R75). Lanes 1, 2 and 3 are ignored. -/
def execDecL1 (c0 : Byte) (s : State) : Result := decStep true 1#3 c0 0x00#8 0x00#8 0x00#8 s

/-- `DEC.E0` (R76). All lanes are ignored. With a message open it raises the Fault `DEC_F_EMPTY_CLOSE`. -/
def execDecE0 (s : State) : Result := decStep true 0#3 0x00#8 0x00#8 0x00#8 0x00#8 s

end Sys2Proof.Machine
end

