-- ==== Sys2Proof/Machine/Encoder.lean ====
section
/-! DEFINITION. The encoder datapath `ENC` (spec/40_encoder.md): the group function R53, the port's step R54, and the
meanings of the five ENC operations R55 to R59. -/

namespace Sys2Proof.Machine

/-- `enc_group` (R53): the four characters of a group with `cnt` valid bytes, `cnt` in 1 to 3. -/
def encGroup (b0 b1 b2 : Byte) (cnt : BitVec 2) : BitVec 32 :=
  let (s0, s1, s2, s3) := split24 (encOperand b0 b1 b2 cnt)
  let q2 := if 2#2 ≤ cnt then fwd s2 else padChar
  let q3 := if cnt = 3#2 then fwd s3 else padChar
  fwd s0 ++ fwd s1 ++ q2 ++ q3

/-- The response to a legal ENC beat (R54), a function of the beat and of `ENC_OLEN`. -/
def encResponse (last : Bool) (cnt : BitVec 2) (b0 b1 b2 : Byte) (s : State) : EncResponse :=
  let q := if cnt = 0#2 then 0x00000000#32 else encGroup b0 b1 b2 cnt
  let qcnt := if cnt = 0#2 then 0#3 else 4#3
  { q := q, qcnt := qcnt, done := last, total := countUp s.cfg s.encOlen qcnt.toNat, fault := false }

/-- `enc_step` (R54) on the fields of a beat. Where the port is out of service the beat is not accepted and has no effect
(R18). -/
def encStep (last : Bool) (cnt : BitVec 2) (b0 b1 b2 : Byte) (s : State) : Result :=
  if s.encFault then .next s
  else
    match encFraming last cnt with
    | some code => .next (raiseFault code s)
    | none =>
      let r := encResponse last cnt b0 b1 b2 s
      .next ((s.setEncOlen (if last then 0 else r.total)).giveEnc r)

/-- `ENC.G3` (R55). -/
def execEncG3 (b0 b1 b2 : Byte) (s : State) : Result := encStep false 3#2 b0 b1 b2 s

/-- `ENC.G3L` (R56). -/
def execEncG3L (b0 b1 b2 : Byte) (s : State) : Result := encStep true 3#2 b0 b1 b2 s

/-- `ENC.T2` (R57). Lane 2 is ignored: 0x00 stands for it. -/
def execEncT2 (b0 b1 : Byte) (s : State) : Result := encStep true 2#2 b0 b1 0x00#8 s

/-- `ENC.T1` (R58). Lanes 1 and 2 are ignored. -/
def execEncT1 (b0 : Byte) (s : State) : Result := encStep true 1#2 b0 0x00#8 0x00#8 s

/-- `ENC.E0` (R59). All lanes are ignored. -/
def execEncE0 (s : State) : Result := encStep true 0#2 0x00#8 0x00#8 0x00#8 s

end Sys2Proof.Machine
end

