-- ==== Sys2Proof/Machine/Dispatch.lean ====
section
/-! DEFINITION. One arm per operation of spec/opcode_table.json: the operation's meaning, called by its full name. -/

namespace Sys2Proof.Machine

def exec (i : Instr) (s : State) : Host.Outcome State Fault Refusal :=
  match i with
  | .encG3 b0 b1 b2 => Sys2Proof.Machine.execEncG3 b0 b1 b2 s
  | .encG3L b0 b1 b2 => Sys2Proof.Machine.execEncG3L b0 b1 b2 s
  | .encT2 b0 b1 => Sys2Proof.Machine.execEncT2 b0 b1 s
  | .encT1 b0 => Sys2Proof.Machine.execEncT1 b0 s
  | .encE0 => Sys2Proof.Machine.execEncE0 s
  | .decG4 c0 c1 c2 c3 => Sys2Proof.Machine.execDecG4 c0 c1 c2 c3 s
  | .decL4 c0 c1 c2 c3 => Sys2Proof.Machine.execDecL4 c0 c1 c2 c3 s
  | .decL3 c0 c1 c2 => Sys2Proof.Machine.execDecL3 c0 c1 c2 s
  | .decL2 c0 c1 => Sys2Proof.Machine.execDecL2 c0 c1 s
  | .decL1 c0 => Sys2Proof.Machine.execDecL1 c0 s
  | .decE0 => Sys2Proof.Machine.execDecE0 s

end Sys2Proof.Machine
end

