-- ==== Sys2Proof/Machine/Clock.lean ====
section
/-! DEFINITION. One clock cycle: the beats that the host presents are accepted or not (spec/10_state.md R18), reset wins
over a beat (spec/70_reset_and_hazards.md R107), and the output signals of the cycle (spec/10_state.md R16, R17). -/

namespace Sys2Proof.Machine

/-- An ENC beat is presented: its operation runs, or it is illegal. -/
def acceptEnc (w : EncWord) (s : State) : Result :=
  match decodeEnc w with
  | .ok i => exec i s
  | .error code => .next (illegalBeat code s)

/-- A DEC beat is presented: its operation runs, or it is illegal. -/
def acceptDec (w : DecWord) (s : State) : Result :=
  match decodeDec w with
  | .ok i => exec i s
  | .error code => .next (illegalBeat code s)

/-- The ENC port's part of a cycle: nothing happens where no beat is presented. -/
def encCycle (b : Option EncWord) (s : State) : Result :=
  match b with
  | none => .next s
  | some w => acceptEnc w s

/-- The DEC port's part of a cycle. -/
def decCycle (b : Option DecWord) (s : State) : Result :=
  match b with
  | none => .next s
  | some w => acceptDec w s

/-- One rising edge of the clock (R15). With `rst = 1` the registers are reset and no beat is accepted (R107); else each
port takes its beat. The ports commute (R34): the ENC port goes first (log entry 5). -/
def runCycle (c : Cycle) (s : State) : Result :=
  if c.rst then .next (resetRegisters s)
  else andThen (encCycle c.enc s) (decCycle c.dec)

/-- A clock cycle in which the host presents one beat and no reset. -/
def Cycle.ofBeat (b : Beat) : Cycle :=
  match b with
  | .enc w => { rst := false, enc := some w, dec := none }
  | .dec w => { rst := false, enc := none, dec := some w }

/-- A clock cycle with `rst = 1` and no beat: the `RESET` of R48. -/
def Cycle.reset : Cycle := { rst := true, enc := none, dec := none }

/-- A clock cycle in which the host does nothing. -/
def Cycle.idle : Cycle := { rst := false, enc := none, dec := none }

/-- The host presents beats, one a cycle, before the cycles it was going to drive. -/
def presentBeats (bs : List Beat) (s : State) : State := { s with input := bs.map Cycle.ofBeat ++ s.input }

/-- The ENC output signals of a cycle (R16). `enc_rvalid` is `resp.isSome`; without a response the spec gives the response
signals no value, and neither does the model (log entry 9). -/
structure EncPins where
  ready : Bool
  resp : Option EncResponse
  fault : Bool
  deriving DecidableEq, Repr

/-- The DEC output signals of a cycle (R17). -/
structure DecPins where
  ready : Bool
  resp : Option DecResponse
  fault : Bool
  deriving DecidableEq, Repr

/-- The response to an ENC beat that is accepted in state `s` (R54). -/
def encReply (w : EncWord) (s : State) : EncResponse :=
  match encFraming (encLast w) (encCnt w) with
  | some _ => encFaultResponse
  | none => encResponse (encLast w) (encCnt w) (encB0 w) (encB1 w) (encB2 w) s

/-- The response to a DEC beat that is accepted in state `s` (R70). -/
def decReply (w : DecWord) (s : State) : DecResponse :=
  match decFraming (decLast w) (decCnt w) s.decOpen with
  | some _ => decFaultResponse
  | none => decResponse (decLast w) (decCnt w) (decC0 w) (decC1 w) (decC2 w) (decC3 w) s

/-- The ENC outputs, combinational in the cycle's inputs and the state before it (R16, R113 with `LAT` = 0). -/
def encPins (c : Cycle) (s : State) : EncPins :=
  let ready := encReady c.rst s
  let resp := if ready then c.enc.map (encReply · s) else none
  { ready := ready, resp := resp, fault := encFaultOut s resp }

/-- The DEC outputs (R17). -/
def decPins (c : Cycle) (s : State) : DecPins :=
  let ready := decReady c.rst s
  let resp := if ready then c.dec.map (decReply · s) else none
  { ready := ready, resp := resp, fault := decFaultOut s resp }

/-- Take the next cycle from the host and run it. A host that drives nothing more leaves the block idle (R110, log entry
12). -/
def clockEdge (s : State) : Result :=
  match s.input with
  | [] => .next s
  | c :: rest => runCycle c { s with input := rest }

/-- Present the beat of a table word in the very next cycle (log entry 10). A number that is no beat presents nothing. -/
def presentTableWord (s : State) (nbits w : Nat) : State :=
  match beatOfTableWord nbits w with
  | none => s
  | some b => presentBeats [b] s

end Sys2Proof.Machine
end

