-- ==== Sys2Proof/Machine/Step.lean ====
section
/-! DEFINITION. The step of the machine, one clock edge (spec/10_state.md R15, R18), and the placing of a beat where the
next step takes it. -/

namespace Sys2Proof.Machine

/-- One step: `clockEdge`. -/
def step (s : State) : Host.Outcome State Fault Refusal := clockEdge s

/-- `s` with the instruction word `w` presented in the next clock cycle: `presentTableWord`. -/
def State.withFetchWord (s : State) (nbits w : Nat) : State := presentTableWord s nbits w

end Sys2Proof.Machine
end

