-- ==== Sys2Proof/Machine/Sizes.lean ====
section
/-! DEFINITION. The three size functions of the host, on natural numbers without bound (spec/43_size_helpers.md). -/

namespace Sys2Proof.Machine

/-- `ceil_div(a, b)` (spec/00_scope.md R6). -/
def ceilDiv (a b : Nat) : Nat := (a + b - 1) / b

/-- `encodedLength` (R87). -/
def encodedLength (n : Nat) : Nat := ceilDiv n 3 * 4

/-- `encodedCapacity` (R88). -/
def encodedCapacity (n : Nat) : Nat := ceilDiv n 3 * 4 + 1

/-- `decodedCapacity` (R89). -/
def decodedCapacity (len : Nat) : Nat := len / 4 * 3 + 2

end Sys2Proof.Machine
end

