-- ==== Sys2Proof/Machine/Message.lean ====
section
/-! DEFINITION. The message level: the macros `ENC.MSG` and `DEC.MSG` (spec/30_encoding.md R49), the functions `encode`
(spec/40_encoder.md R61) and `decode` (spec/41_decoder.md R79) that the block computes over whole messages, and what a
list of responses delivers (spec/70_reset_and_hazards.md R112). -/

namespace Sys2Proof.Machine

/-- `encode(B)` (R61): the text of a byte sequence. -/
def encodeBytes : List Byte → List Byte
  | [] => []
  | [b0] => lanes32 (encGroup b0 0x00#8 0x00#8 1#2)
  | [b0, b1] => lanes32 (encGroup b0 b1 0x00#8 2#2)
  | b0 :: b1 :: b2 :: rest => lanes32 (encGroup b0 b1 b2 3#2) ++ encodeBytes rest

/-- The bytes of a group that decoded well: the first `nb` lanes of `q` (R79). -/
def groupBytes (g : DecGroup) : List Byte := (lanes24 g.q).take g.nb.toNat

/-- The loop of `decode(T)` (R79) over whole groups: `none` is `DecodeError`. -/
def decodeGroups : List Byte → Option (List Byte)
  | [] => some []
  | [c0, c1, c2, c3] =>
    let g := decGroup true 4#3 c0 c1 c2 c3
    if g.ok then some (groupBytes g) else none
  | c0 :: c1 :: c2 :: c3 :: c4 :: rest =>
    let g := decGroup false 4#3 c0 c1 c2 c3
    if g.ok then (decodeGroups (c4 :: rest)).map (groupBytes g ++ ·) else none
  | _ => none

/-- `decode(T)` (R79): `some` is `Ok`, `none` is `DecodeError`. -/
def decodeText (t : List Byte) : Option (List Byte) :=
  if t.length % 4 ≠ 0 then none else decodeGroups t

/-- The macro `ENC.MSG` (R49). -/
def encMsg : List Byte → List Instr
  | [] => [.encE0]
  | [b0] => [.encT1 b0]
  | [b0, b1] => [.encT2 b0 b1]
  | [b0, b1, b2] => [.encG3L b0 b1 b2]
  | b0 :: b1 :: b2 :: b3 :: rest => .encG3 b0 b1 b2 :: encMsg (b3 :: rest)

/-- The second legal framing of a message whose length is a positive multiple of 3 (R49): full groups, then `ENC.E0`.
Bytes that do not fill a group are not framed. -/
def encMsgClosed : List Byte → List Instr
  | b0 :: b1 :: b2 :: rest => .encG3 b0 b1 b2 :: encMsgClosed rest
  | _ => [.encE0]

/-- The macro `DEC.MSG` (R49). -/
def decMsg : List Byte → List Instr
  | [] => [.decE0]
  | [c0] => [.decL1 c0]
  | [c0, c1] => [.decL2 c0 c1]
  | [c0, c1, c2] => [.decL3 c0 c1 c2]
  | [c0, c1, c2, c3] => [.decL4 c0 c1 c2 c3]
  | c0 :: c1 :: c2 :: c3 :: c4 :: rest => .decG4 c0 c1 c2 c3 :: decMsg (c4 :: rest)

/-- The valid lanes of an ENC response (R41). -/
def EncResponse.validLanes (r : EncResponse) : List Byte := (lanes32 r.q).take r.qcnt.toNat

/-- The valid lanes of a DEC response (R42). -/
def DecResponse.validLanes (r : DecResponse) : List Byte := (lanes24 r.q).take r.qcnt.toNat

/-- The text that ENC responses deliver, in order (R112). -/
def textOf (rs : List EncResponse) : List Byte := rs.flatMap EncResponse.validLanes

/-- The bytes that DEC responses deliver, in order (R112). -/
def bytesOf (rs : List DecResponse) : List Byte := rs.flatMap DecResponse.validLanes

/-- What the groups before the first failing group of a text decode to (R79). -/
def goodPrefix : List Byte → List Byte
  | c0 :: c1 :: c2 :: c3 :: c4 :: rest =>
    let g := decGroup false 4#3 c0 c1 c2 c3
    if g.ok then groupBytes g ++ goodPrefix (c4 :: rest) else []
  | [c0, c1, c2, c3] =>
    let g := decGroup true 4#3 c0 c1 c2 c3
    if g.ok then groupBytes g else []
  | _ => []

/-- The number of trailing padding characters of a text (R82). -/
def trailingPads (t : List Byte) : Nat := (t.reverse.takeWhile (· == padChar)).length

/-- The padding character is followed, somewhere later, by a data character (R81). -/
def padBeforeData : List Byte → Bool
  | [] => false
  | c :: rest => (c == padChar && rest.any isDataChar) || padBeforeData rest

end Sys2Proof.Machine
end

