-- ==== Sys2Proof/Safety.lean ====
section
/-! DEFINITION. What the statements call a good state: the invariants of the registers (spec/10_state.md R8,
spec/41_decoder.md R78) and of the responses (spec/30_encoding.md R41, R42), and when a message is open
(spec/70_reset_and_hazards.md R112). -/

namespace Sys2Proof.Machine

/-- `LEN_W` is allowed, and each counter holds a `LEN_W`-bit value (R5, R8). -/
abbrev State.CountersFit (s : State) : Prop :=
  s.cfg.Allowed ∧ s.encOlen < s.cfg.modulus ∧ s.decOlen < s.cfg.modulus

/-- The encoder counts whole groups of characters: `ENC_OLEN` is a multiple of 4 (2^`LEN_W` is one too). -/
abbrev State.EncCountsGroups (s : State) : Prop := s.encOlen % 4 = 0

/-- R78: with no message open, `DEC_OLEN` and `DEC_ERR` are 0. -/
abbrev State.ClosedIsClean (s : State) : Prop :=
  s.decOpen = false → s.decOlen = 0 ∧ s.decErr = false

/-- The register invariant. -/
abbrev State.RegistersWf (s : State) : Prop :=
  s.CountersFit ∧ s.EncCountsGroups ∧ s.ClosedIsClean

/-- A character of the 65-symbol set (R63). -/
abbrev inAlphabet (c : Byte) : Prop := isDataChar c = true ∨ c = padChar

/-- The legal values of an ENC response's fields (R41, R63): 4 valid lanes of the alphabet or none and zero; after a
Fault every field 0. -/
abbrev EncResponse.Wf (c : Config) (r : EncResponse) : Prop :=
  r.total < c.modulus ∧
  ((r.qcnt = 4#3 ∧ ∀ x ∈ lanes32 r.q, inAlphabet x) ∨ (r.qcnt = 0#3 ∧ r.q = 0#32)) ∧
  (r.fault = true → r.qcnt = 0#3 ∧ r.done = false ∧ r.total = 0)

/-- The legal values of a DEC response's fields (R42): lanes beyond `qcnt` zero, no byte from a failed message, after a
Fault every field 0. -/
abbrev DecResponse.Wf (c : Config) (r : DecResponse) : Prop :=
  r.total < c.modulus ∧
  (∀ x ∈ (lanes24 r.q).drop r.qcnt.toNat, x = 0x00#8) ∧
  (r.fail = true → r.qcnt = 0#2) ∧
  (r.fault = true → r.qcnt = 0#2 ∧ r.done = false ∧ r.fail = false ∧ r.total = 0)

/-- Every response produced has legal fields. -/
abbrev State.ResponsesWf (s : State) : Prop :=
  (∀ r ∈ s.encOut, EncResponse.Wf s.cfg r) ∧ (∀ r ∈ s.decOut, DecResponse.Wf s.cfg r)

/-- The invariant that every step keeps. -/
abbrev State.Wf (s : State) : Prop := s.RegistersWf ∧ s.ResponsesWf

/-- The DEC port is quiescent (R112): no message open on it and not faulted. (The ENC port keeps no bit that says whether
a message is open, R8; `messageOpen` says it of the beats accepted since reset.) -/
def decQuiescent (s : State) : Bool := !s.decOpen && !s.decFault

/-- A message is open after these beats, accepted on one port since reset: the last of them was not the last of its
message (R11, R112). -/
def messageOpen (accepted : List Instr) : Bool :=
  match accepted.getLast? with
  | none => false
  | some i => !i.isLast

/-- The responses of the message that is open: those after the last response with `done = 1` (R112). -/
def openResponses (rs : List DecResponse) : List DecResponse :=
  (rs.reverse.takeWhile (fun r => !r.done)).reverse

/-- `k` steps of the machine, one clock edge each. -/
def runSteps : Nat → State → Result
  | 0, s => .next s
  | k + 1, s => andThen (step s) (runSteps k)

/-- The host presents the beats of `is`, one a cycle, and the machine runs them. -/
def runBeats (is : List Instr) (s : State) : Result := runSteps is.length (presentBeats (is.map encode) s)

/-- Nothing of the message before is left on the DEC port (R112), and the port is in service. -/
abbrev DecClean (s : State) : Prop :=
  s.decFault = false ∧ s.decOpen = false ∧ s.decOlen = 0 ∧ s.decErr = false

/-- Nothing of the message before is left on the ENC port (R112), and the port is in service. -/
abbrev EncClean (s : State) : Prop := s.encFault = false ∧ s.encOlen = 0

/-- The ENC port's registers hold what they held: nothing of the encoder moved. -/
abbrev SameEncPort (s t : State) : Prop :=
  t.encOlen = s.encOlen ∧ t.encFault = s.encFault ∧ t.encOut = s.encOut

/-- The DEC port's registers hold what they held: nothing of the decoder moved. -/
abbrev SameDecPort (s t : State) : Prop :=
  t.decOlen = s.decOlen ∧ t.decOpen = s.decOpen ∧ t.decErr = s.decErr ∧ t.decFault = s.decFault ∧
    t.decOut = s.decOut

end Sys2Proof.Machine
end

