-- ==== Sys2Proof/Certificates/Slice0/Obligations.lean ====
section
/-! DEFINITION. The statements for the provers. Each docstring names the rule of spec/ that it formalises. -/

open Sys2Proof Sys2Proof.Machine

/-! ## The encoder's operations -/

/-- R55. `ENC.G3`: four data characters, the count goes up by 4, the message continues. -/
def Obligations.EncG3ContinuesTheMessage : Prop :=
  (∀ w : EncWord, w &&& 0x7000000#27 = 0x3000000#27 →
    decodeEnc w = .ok (.encG3 (w.extractLsb' 16 8) (w.extractLsb' 8 8) (w.extractLsb' 0 8))) ∧
  (∀ (b0 b1 b2 : Byte) (s : State), s.encFault = false →
    exec (.encG3 b0 b1 b2) s = .next { s with
      encOlen := (s.encOlen + 4) % 2 ^ s.cfg.lenW
      encOut := s.encOut ++ [{
        q := fwd (b0.extractLsb' 2 6) ++ fwd (b0.extractLsb' 0 2 ++ b1.extractLsb' 4 4) ++
          fwd (b1.extractLsb' 0 4 ++ b2.extractLsb' 6 2) ++ fwd (b2.extractLsb' 0 6)
        qcnt := 4
        done := false
        total := (s.encOlen + 4) % 2 ^ s.cfg.lenW
        fault := false }] })

/-- R56. `ENC.G3L`: the same characters as `ENC.G3`; the message ends. -/
def Obligations.EncG3LEndsTheMessage : Prop :=
  (∀ w : EncWord, w &&& 0x7000000#27 = 0x7000000#27 →
    decodeEnc w = .ok (.encG3L (w.extractLsb' 16 8) (w.extractLsb' 8 8) (w.extractLsb' 0 8))) ∧
  (∀ (b0 b1 b2 : Byte) (s : State), s.encFault = false →
    exec (.encG3L b0 b1 b2) s = .next { s with
      encOlen := 0
      encOut := s.encOut ++ [{
        q := fwd (b0.extractLsb' 2 6) ++ fwd (b0.extractLsb' 0 2 ++ b1.extractLsb' 4 4) ++
          fwd (b1.extractLsb' 0 4 ++ b2.extractLsb' 6 2) ++ fwd (b2.extractLsb' 0 6)
        qcnt := 4
        done := true
        total := (s.encOlen + 4) % 2 ^ s.cfg.lenW
        fault := false }] })

/-- R57. `ENC.T2`: three data characters over 16 bits and two zero bits, then one padding character; lane 2 is ignored. -/
def Obligations.EncT2PadsOnce : Prop :=
  (∀ w : EncWord, w &&& 0x7000000#27 = 0x6000000#27 →
    decodeEnc w = .ok (.encT2 (w.extractLsb' 16 8) (w.extractLsb' 8 8))) ∧
  (∀ (b0 b1 : Byte) (s : State), s.encFault = false →
    exec (.encT2 b0 b1) s = .next { s with
      encOlen := 0
      encOut := s.encOut ++ [{
        q := fwd (b0.extractLsb' 2 6) ++ fwd (b0.extractLsb' 0 2 ++ b1.extractLsb' 4 4) ++
          fwd (b1.extractLsb' 0 4 ++ 0#2) ++ 0x2E#8
        qcnt := 4
        done := true
        total := (s.encOlen + 4) % 2 ^ s.cfg.lenW
        fault := false }] })

/-- R58. `ENC.T1`: two data characters over 8 bits and four zero bits, then two padding characters; lanes 1 and 2 are
ignored. -/
def Obligations.EncT1PadsTwice : Prop :=
  (∀ w : EncWord, w &&& 0x7000000#27 = 0x5000000#27 → decodeEnc w = .ok (.encT1 (w.extractLsb' 16 8))) ∧
  (∀ (b0 : Byte) (s : State), s.encFault = false →
    exec (.encT1 b0) s = .next { s with
      encOlen := 0
      encOut := s.encOut ++ [{
        q := fwd (b0.extractLsb' 2 6) ++ fwd (b0.extractLsb' 0 2 ++ 0#4) ++ 0x2E#8 ++ 0x2E#8
        qcnt := 4
        done := true
        total := (s.encOlen + 4) % 2 ^ s.cfg.lenW
        fault := false }] })

/-- R59. `ENC.E0`: no character; the message ends with `total` = `ENC_OLEN`. The premise on `ENC_OLEN` says that the
counter holds a `LEN_W`-bit value (R8; kept by every step, `StepKeepsStateWellFormed`). -/
def Obligations.EncE0ClosesWithoutCharacters : Prop :=
  (∀ w : EncWord, w &&& 0x7000000#27 = 0x4000000#27 → decodeEnc w = .ok .encE0) ∧
  (∀ s : State, s.encFault = false → s.encOlen < 2 ^ s.cfg.lenW →
    exec .encE0 s = .next { s with
      encOlen := 0
      encOut := s.encOut ++
        [{ q := 0x00000000#32, qcnt := 0, done := true, total := s.encOlen, fault := false }] })

/-- R60. An illegal ENC beat (`last` = 0, `cnt` in 0 to 2) sets `ENC_FAULT`, answers `fault` = 1 with every other field 0,
keeps `ENC_OLEN` and the DEC port, and no ENC beat is accepted after it until reset. -/
def Obligations.IllegalEncBeatFaults : Prop :=
  ∀ (w : EncWord) (s : State), s.encFault = false →
    (w.extractLsb' 24 3 = 0b000#3 ∨ w.extractLsb' 24 3 = 0b001#3 ∨ w.extractLsb' 24 3 = 0b010#3) →
    decodeEnc w = .error .encPartialNotLast ∧
    ∃ t, acceptEnc w s = .next t ∧
      t = { s with
        encFault := true
        encOut := s.encOut ++ [{ q := 0, qcnt := 0, done := false, total := 0, fault := true }] } ∧
      (∀ rst, encReady rst t = false) ∧ ∀ w' : EncWord, acceptEnc w' t = .next t

/-- R54. What every ENC beat does, on the raw fields of its word: a step when the port is in service, nothing when it is
not. -/
def Obligations.EncPortRunsEncStep : Prop :=
  ∀ (w : EncWord) (s : State),
    let last := w.getLsbD 26
    let cnt := w.extractLsb' 24 2
    let q := if cnt = 0#2 then 0x00000000#32
      else encGroup (w.extractLsb' 16 8) (w.extractLsb' 8 8) (w.extractLsb' 0 8) cnt
    let qcnt := if cnt = 0#2 then 0#3 else 4#3
    let olen := (s.encOlen + qcnt.toNat) % 2 ^ s.cfg.lenW
    acceptEnc w s =
      if s.encFault = true then .next s
      else if last = false ∧ cnt ≠ 3#2 then
        .next { s with
          encFault := true
          encOut := s.encOut ++ [{ q := 0, qcnt := 0, done := false, total := 0, fault := true }] }
      else
        .next { s with
          encOlen := if last = true then 0 else olen
          encOut := s.encOut ++ [{ q := q, qcnt := qcnt, done := last, total := olen, fault := false }] }

/-- R53. The group function of the encoder on each number of valid bytes, whatever the other lanes hold. -/
def Obligations.EncGroupCutsIntoSymbols : Prop :=
  ∀ b0 b1 b2 : Byte,
    encGroup b0 b1 b2 3#2 =
      fwd (b0.extractLsb' 2 6) ++ fwd (b0.extractLsb' 0 2 ++ b1.extractLsb' 4 4) ++
        fwd (b1.extractLsb' 0 4 ++ b2.extractLsb' 6 2) ++ fwd (b2.extractLsb' 0 6) ∧
    encGroup b0 b1 b2 2#2 =
      fwd (b0.extractLsb' 2 6) ++ fwd (b0.extractLsb' 0 2 ++ b1.extractLsb' 4 4) ++
        fwd (b1.extractLsb' 0 4 ++ 0b00#2) ++ 0x2E#8 ∧
    encGroup b0 b1 b2 1#2 =
      fwd (b0.extractLsb' 2 6) ++ fwd (b0.extractLsb' 0 2 ++ 0b0000#4) ++ 0x2E#8 ++ 0x2E#8

/-! ## The decoder's operations -/

/-- R71. `DEC.G4`: three bytes when all four characters are data characters and the message has not failed; otherwise the
message fails. `DEC_OPEN` becomes 1. The premise on `DEC_OLEN` says that the counter holds a `LEN_W`-bit value (R8). -/
def Obligations.DecG4ContinuesTheMessage : Prop :=
  (∀ w : DecWord, w &&& 0xF00000000#36 = 0x400000000#36 →
    decodeDec w = .ok (.decG4 (w.extractLsb' 24 8) (w.extractLsb' 16 8) (w.extractLsb' 8 8) (w.extractLsb' 0 8))) ∧
  (∀ (c0 c1 c2 c3 : Byte) (s : State), s.decFault = false → s.decOlen < 2 ^ s.cfg.lenW →
    exec (.decG4 c0 c1 c2 c3) s =
      if isDataChar c0 ∧ isDataChar c1 ∧ isDataChar c2 ∧ isDataChar c3 ∧ s.decErr = false then
        .next { s with
          decOlen := (s.decOlen + 3) % 2 ^ s.cfg.lenW
          decOpen := true
          decOut := s.decOut ++ [{
            q := RevEntry.val (rev c0) ++ RevEntry.val (rev c1) ++ RevEntry.val (rev c2) ++ RevEntry.val (rev c3)
            qcnt := 3
            done := false
            fail := false
            total := (s.decOlen + 3) % 2 ^ s.cfg.lenW
            fault := false }] }
      else
        .next { s with
          decErr := true
          decOpen := true
          decOut := s.decOut ++
            [{ q := 0, qcnt := 0, done := false, fail := true, total := s.decOlen, fault := false }] }) ∧
  (∀ c0 c1 c2 c3 : Byte, (decGroup false 4#3 c0 c1 c2 c3).cause =
    if (classify c0).bad ∨ (classify c1).bad ∨ (classify c2).bad ∨ (classify c3).bad then .invalidCharacter
    else if c0 = 0x2E#8 ∨ c1 = 0x2E#8 ∨ c2 = 0x2E#8 ∨ c3 = 0x2E#8 then .malformedPadding
    else .none)

/-- R72. `DEC.L4`: 3, 2 or 1 bytes by the pattern of the padding characters when the message has not failed; the message
ends. A padded group's discarded bits are not looked at. -/
def Obligations.DecL4EndsTheMessage : Prop :=
  (∀ w : DecWord, w &&& 0xF00000000#36 = 0xC00000000#36 →
    decodeDec w = .ok (.decL4 (w.extractLsb' 24 8) (w.extractLsb' 16 8) (w.extractLsb' 8 8) (w.extractLsb' 0 8))) ∧
  (∀ (c0 c1 c2 c3 : Byte) (s : State), s.decFault = false → s.decOlen < 2 ^ s.cfg.lenW →
    let v0 := RevEntry.val (rev c0)
    let v1 := RevEntry.val (rev c1)
    let v2 := RevEntry.val (rev c2)
    let v3 := RevEntry.val (rev c3)
    let good (q : BitVec 24) (nb : BitVec 2) : DecResponse :=
      { q := q, qcnt := nb, done := true, fail := false,
        total := (s.decOlen + nb.toNat) % 2 ^ s.cfg.lenW, fault := false }
    exec (.decL4 c0 c1 c2 c3) s = .next { s with
      decOlen := 0
      decErr := false
      decOpen := false
      decOut := s.decOut ++ [
        if s.decErr = false ∧ isDataChar c0 ∧ isDataChar c1 ∧ isDataChar c2 ∧ isDataChar c3 then
          good (v0 ++ v1 ++ v2 ++ v3) 3#2
        else if s.decErr = false ∧ isDataChar c0 ∧ isDataChar c1 ∧ isDataChar c2 ∧ c3 = 0x2E#8 then
          good (v0 ++ v1 ++ v2.extractLsb' 2 4 ++ 0x00#8) 2#2
        else if s.decErr = false ∧ isDataChar c0 ∧ isDataChar c1 ∧ c2 = 0x2E#8 ∧ c3 = 0x2E#8 then
          good (v0 ++ v1.extractLsb' 4 2 ++ 0x0000#16) 1#2
        else
          { q := 0, qcnt := 0, done := true, fail := true, total := s.decOlen, fault := false }] }) ∧
  (∀ c0 c1 c2 c3 : Byte, (decGroup true 4#3 c0 c1 c2 c3).cause =
    if (classify c0).bad ∨ (classify c1).bad ∨ (classify c2).bad ∨ (classify c3).bad then .invalidCharacter
    else if c0 = 0x2E#8 ∨ c1 = 0x2E#8 ∨ (c2 = 0x2E#8 ∧ c3 ≠ 0x2E#8) then .malformedPadding
    else .none)

/-- R73. `DEC.L3` always fails the message and ends it. -/
def Obligations.DecL3AlwaysFails : Prop :=
  (∀ w : DecWord, w &&& 0xF00000000#36 = 0xB00000000#36 →
    decodeDec w = .ok (.decL3 (w.extractLsb' 24 8) (w.extractLsb' 16 8) (w.extractLsb' 8 8))) ∧
  (∀ (c0 c1 c2 : Byte) (s : State), s.decFault = false → s.decOlen < 2 ^ s.cfg.lenW →
    exec (.decL3 c0 c1 c2) s = .next { s with
      decOlen := 0
      decErr := false
      decOpen := false
      decOut := s.decOut ++
        [{ q := 0, qcnt := 0, done := true, fail := true, total := s.decOlen, fault := false }] }) ∧
  (∀ c0 c1 c2 c3 : Byte, (decGroup true 3#3 c0 c1 c2 c3).cause =
    if (classify c0).bad ∨ (classify c1).bad ∨ (classify c2).bad then .invalidCharacter else .badLength)

/-- R74. `DEC.L2` always fails the message and ends it. -/
def Obligations.DecL2AlwaysFails : Prop :=
  (∀ w : DecWord, w &&& 0xF00000000#36 = 0xA00000000#36 →
    decodeDec w = .ok (.decL2 (w.extractLsb' 24 8) (w.extractLsb' 16 8))) ∧
  (∀ (c0 c1 : Byte) (s : State), s.decFault = false → s.decOlen < 2 ^ s.cfg.lenW →
    exec (.decL2 c0 c1) s = .next { s with
      decOlen := 0
      decErr := false
      decOpen := false
      decOut := s.decOut ++
        [{ q := 0, qcnt := 0, done := true, fail := true, total := s.decOlen, fault := false }] }) ∧
  (∀ c0 c1 c2 c3 : Byte, (decGroup true 2#3 c0 c1 c2 c3).cause =
    if (classify c0).bad ∨ (classify c1).bad then .invalidCharacter else .badLength)

/-- R75. `DEC.L1` always fails the message and ends it. -/
def Obligations.DecL1AlwaysFails : Prop :=
  (∀ w : DecWord, w &&& 0xF00000000#36 = 0x900000000#36 → decodeDec w = .ok (.decL1 (w.extractLsb' 24 8))) ∧
  (∀ (c0 : Byte) (s : State), s.decFault = false → s.decOlen < 2 ^ s.cfg.lenW →
    exec (.decL1 c0) s = .next { s with
      decOlen := 0
      decErr := false
      decOpen := false
      decOut := s.decOut ++
        [{ q := 0, qcnt := 0, done := true, fail := true, total := s.decOlen, fault := false }] }) ∧
  (∀ c0 c1 c2 c3 : Byte, (decGroup true 1#3 c0 c1 c2 c3).cause =
    if (classify c0).bad then .invalidCharacter else .badLength)

/-- R76. `DEC.E0`: with no message open it is the empty message, a success of 0 bytes that leaves every register as it was;
with a message open it raises the Fault. The premise of the first clause is the invariant R78. -/
def Obligations.DecE0IsTheEmptyMessage : Prop :=
  (∀ w : DecWord, w &&& 0xF00000000#36 = 0x800000000#36 → decodeDec w = .ok .decE0) ∧
  (∀ s : State, s.decFault = false → s.decOpen = false → s.ClosedIsClean →
    exec .decE0 s = .next { s with
      decOut := s.decOut ++ [{ q := 0, qcnt := 0, done := true, fail := false, total := 0, fault := false }] }) ∧
  (∀ s : State, s.decFault = false → s.decOpen = true →
    decFraming true 0#3 s.decOpen = some .decEmptyClose ∧
    exec .decE0 s = .next { s with
      decFault := true
      decOut := s.decOut ++ [{ q := 0, qcnt := 0, done := false, fail := false, total := 0, fault := true }] })

/-- R77. An illegal DEC beat sets `DEC_FAULT`, answers `fault` = 1 with every other field 0, keeps `DEC_OLEN`, `DEC_OPEN`,
`DEC_ERR` and the ENC port, whatever its characters are, and no DEC beat is accepted after it until reset. -/
def Obligations.IllegalDecBeatFaults : Prop :=
  ∀ (w : DecWord) (s : State), s.decFault = false →
    let last := w.getLsbD 35
    let cnt := (w.extractLsb' 32 3).toNat
    (last = false ∧ cnt ≠ 4 ∨ 4 < cnt ∨ last = true ∧ cnt = 0 ∧ s.decOpen = true) →
    (4 < cnt → decodeDec w = .error .decCntRange) ∧
    (last = false ∧ cnt < 4 → decodeDec w = .error .decPartialNotLast) ∧
    (last = true ∧ cnt = 0 → decodeDec w = .ok .decE0) ∧
    decFraming last (w.extractLsb' 32 3) s.decOpen = some
      (if 4 < cnt then .decCntRange else if last = false then .decPartialNotLast else .decEmptyClose) ∧
    ∃ t, acceptDec w s = .next t ∧
      t = { s with
        decFault := true
        decOut := s.decOut ++ [{ q := 0, qcnt := 0, done := false, fail := false, total := 0, fault := true }] } ∧
      (∀ rst, decReady rst t = false) ∧ ∀ w' : DecWord, acceptDec w' t = .next t

/-- R70. What every DEC beat does, on the raw fields of its word: a step when the port is in service, nothing when it is
not. -/
def Obligations.DecPortRunsDecStep : Prop :=
  ∀ (w : DecWord) (s : State),
    let last := w.getLsbD 35
    let cnt := w.extractLsb' 32 3
    let g := decGroup last cnt (w.extractLsb' 24 8) (w.extractLsb' 16 8) (w.extractLsb' 8 8) (w.extractLsb' 0 8)
    let err := s.decErr || !g.ok
    let qcnt := if err = true then 0#2 else g.nb
    let olen := (s.decOlen + qcnt.toNat) % 2 ^ s.cfg.lenW
    acceptDec w s =
      if s.decFault = true then .next s
      else if last = false ∧ cnt ≠ 4#3 ∨ 4#3 < cnt ∨ last = true ∧ cnt = 0#3 ∧ s.decOpen = true then
        .next { s with
          decFault := true
          decOut := s.decOut ++
            [{ q := 0, qcnt := 0, done := false, fail := false, total := 0, fault := true }] }
      else
        .next { s with
          decOlen := if last = true then 0 else olen
          decErr := if last = true then false else err
          decOpen := if last = true then false else true
          decOut := s.decOut ++
            [{ q := if err = true then 0x000000#24 else g.q, qcnt := qcnt, done := last, fail := err,
               total := olen, fault := false }] }

/-- R68, R93, R97. The verdict on a group and the name of its failure: an invalid character in a valid lane comes first,
then a wrong length, then malformed padding; the group is good exactly when none applies. -/
def Obligations.DecGroupNamesTheFirstFailure : Prop :=
  ∀ (last : Bool) (cnt : BitVec 3) (c0 c1 c2 c3 : Byte), cnt ≤ 4#3 →
    let valid := [c0, c1, c2, c3].take cnt.toNat
    let g := decGroup last cnt c0 c1 c2 c3
    let invalid := ∃ c ∈ valid, isDataChar c = false ∧ c ≠ 0x2E#8
    let short := last = true ∧ (cnt = 1#3 ∨ cnt = 2#3 ∨ cnt = 3#3)
    (invalid → g.cause = .invalidCharacter) ∧
    (¬ invalid → short → g.cause = .badLength) ∧
    (¬ invalid → ¬ short →
      (last = false → (g.cause = .malformedPadding ↔ 0x2E#8 ∈ valid)) ∧
      (last = true → cnt = 4#3 → (g.cause = .malformedPadding ↔ c0 = 0x2E#8 ∨ c1 = 0x2E#8 ∨
        (c2 = 0x2E#8 ∧ c3 ≠ 0x2E#8)))) ∧
    (g.ok = true ↔ g.cause = .none)

/-- R84, R85. `PV` in each of its forms: in a full last beat only no, one or two trailing padding characters pass; in a
beat that is not last, or is short, any padding character in a valid lane is an error. -/
def Obligations.PaddingValidatorTable : Prop :=
  ∀ (last : Bool) (cnt : BitVec 3) (p0 p1 p2 p3 : Bool), cnt ≤ 4#3 →
    (pv last cnt p0 p1 p2 p3).lenErr = (last && (cnt == 1#3 || cnt == 2#3 || cnt == 3#3)) ∧
    (last = true → cnt = 4#3 →
      (pv last cnt p0 p1 p2 p3).npad =
        (if (p0, p1, p2, p3) = (false, false, false, true) then 1#2
         else if (p0, p1, p2, p3) = (false, false, true, true) then 2#2 else 0#2) ∧
      ((pv last cnt p0 p1 p2 p3).padErr = false ↔
        (p0, p1, p2, p3) = (false, false, false, false) ∨ (p0, p1, p2, p3) = (false, false, false, true) ∨
          (p0, p1, p2, p3) = (false, false, true, true))) ∧
    (¬ (last = true ∧ cnt = 4#3) →
      (pv last cnt p0 p1 p2 p3).npad = 0#2 ∧
      ((pv last cnt p0 p1 p2 p3).padErr = true ↔
        (p0 = true ∧ 0 < cnt.toNat) ∨ (p1 = true ∧ 1 < cnt.toNat) ∨ (p2 = true ∧ 2 < cnt.toNat) ∨
          (p3 = true ∧ 3 < cnt.toNat)))

/-- R69. The zero-fill bits of a padded final group are not checked: characters that differ only in the discarded bits
decode alike, and so `decode` is not injective. -/
def Obligations.DiscardedBitsAreNotChecked : Prop :=
  (∀ (c0 c1 c2 c2' : Byte) (s : State), isDataChar c2 → isDataChar c2' →
    (RevEntry.val (rev c2)).extractLsb' 2 4 = (RevEntry.val (rev c2')).extractLsb' 2 4 →
    exec (.decL4 c0 c1 c2 0x2E#8) s = exec (.decL4 c0 c1 c2' 0x2E#8) s) ∧
  (∀ (c0 c1 c1' : Byte) (s : State), isDataChar c1 → isDataChar c1' →
    (RevEntry.val (rev c1)).extractLsb' 4 2 = (RevEntry.val (rev c1')).extractLsb' 4 2 →
    exec (.decL4 c0 c1 0x2E#8 0x2E#8) s = exec (.decL4 c0 c1' 0x2E#8 0x2E#8) s) ∧
  (∃ t b, decodeText t = some b ∧ encodeBytes b ≠ t)

/-! ## The ROMs and the slicing of a group -/

/-- R22, R25. The two ROMs in closed form. -/
def Obligations.RomsInClosedForm : Prop :=
  (∀ s : Symbol, fwd s =
    if s.toNat ≤ 25 then BitVec.ofNat 8 (0x41 + s.toNat)
    else if s.toNat ≤ 51 then BitVec.ofNat 8 (0x61 + (s.toNat - 26))
    else if s.toNat ≤ 61 then BitVec.ofNat 8 (0x30 + (s.toNat - 52))
    else if s.toNat = 62 then 0x2D#8 else 0x5F#8) ∧
  (∀ c : Byte, rev c =
    if 0x41 ≤ c.toNat ∧ c.toNat ≤ 0x5A then BitVec.ofNat 7 (c.toNat - 0x41)
    else if 0x61 ≤ c.toNat ∧ c.toNat ≤ 0x7A then BitVec.ofNat 7 (c.toNat - 0x61 + 26)
    else if 0x30 ≤ c.toNat ∧ c.toNat ≤ 0x39 then BitVec.ofNat 7 (c.toNat - 0x30 + 52)
    else if c = 0x2D#8 then 62#7
    else if c = 0x5F#8 then 63#7
    else 0x40#7)

/-- R26. `REV` is the exact inverse of `FWD`. -/
def Obligations.ReverseRomInvertsForwardRom : Prop :=
  (∀ s : Symbol, rev (fwd s) = 0#1 ++ s) ∧
  (∀ c : Byte, RevEntry.inv (rev c) = false → fwd (RevEntry.val (rev c)) = c)

/-- R24, R66. `FWD` is injective and never gives the padding character; every code is exactly one of data character,
padding character and invalid, and what is no data character has the value 0. -/
def Obligations.EveryCodeIsOneOfThree : Prop :=
  (∀ a b : Symbol, fwd a = fwd b → a = b) ∧
  (∀ a : Symbol, fwd a ≠ 0x2E#8) ∧
  (∀ c : Byte,
    (∃ s, c = fwd s ∧ classify c = { pad := false, bad := false, val := s }) ∨
    (c = 0x2E#8 ∧ classify c = { pad := true, bad := false, val := 0 }) ∨
    ((∀ s, c ≠ fwd s) ∧ c ≠ 0x2E#8 ∧ classify c = { pad := false, bad := true, val := 0 }))

/-- R52, R67. `split24` cuts at the bits the rule names, `pack24` is its inverse, and no bit is added or dropped. -/
def Obligations.PackInvertsSplit : Prop :=
  (∀ b0 b1 b2 : Byte, split24 (b0 ++ b1 ++ b2) =
    (b0.extractLsb' 2 6, b0.extractLsb' 0 2 ++ b1.extractLsb' 4 4, b1.extractLsb' 0 4 ++ b2.extractLsb' 6 2,
      b2.extractLsb' 0 6)) ∧
  (∀ v0 v1 v2 v3 : Symbol, split24 (pack24 v0 v1 v2 v3) = (v0, v1, v2, v3) ∧
    lanes24 (pack24 v0 v1 v2 v3) =
      [v0 ++ v1.extractLsb' 4 2, v1.extractLsb' 0 4 ++ v2.extractLsb' 2 4, v2.extractLsb' 0 2 ++ v3]) ∧
  (∀ g : BitVec 24, pack24 (split24 g).1 (split24 g).2.1 (split24 g).2.2.1 (split24 g).2.2.2 = g)

/-! ## Encoding -/

/-- R39, R40, R44, R45, R48. Decoding an operation's word gives the operation back, with every operand. -/
def Obligations.DecodeGivesBackTheEncodedInstruction : Prop :=
  ∀ i : Instr, i.wellFormed = true → decode (encode i) = .ok i

/-- R43, R48. The other way round: a word that decodes to an operation is that operation's word once its ignored lanes are
cleared; clearing them never changes what a word decodes to. -/
def Obligations.EncodeGivesBackTheDecodedWord : Prop :=
  (∀ (b : Beat) (i : Instr), decode b = .ok i → encode i = clearIgnored b) ∧
  (∀ b : Beat, decode (clearIgnored b) = decode b)

/-- R43. What the host drives on a lane with index `cnt` or more never matters: two words with the same selecting bits and
the same valid lanes do the same in every state. -/
def Obligations.IgnoredLanesNeverMatter : Prop :=
  (∀ (w w' : EncWord) (s : State), w.extractLsb' 24 3 = w'.extractLsb' 24 3 →
    (1 ≤ (w.extractLsb' 24 2).toNat → w.extractLsb' 16 8 = w'.extractLsb' 16 8) →
    (2 ≤ (w.extractLsb' 24 2).toNat → w.extractLsb' 8 8 = w'.extractLsb' 8 8) →
    (3 ≤ (w.extractLsb' 24 2).toNat → w.extractLsb' 0 8 = w'.extractLsb' 0 8) →
    acceptEnc w s = acceptEnc w' s) ∧
  (∀ (w w' : DecWord) (s : State), w.extractLsb' 32 4 = w'.extractLsb' 32 4 →
    (1 ≤ (w.extractLsb' 32 3).toNat → w.extractLsb' 24 8 = w'.extractLsb' 24 8) →
    (2 ≤ (w.extractLsb' 32 3).toNat → w.extractLsb' 16 8 = w'.extractLsb' 16 8) →
    (3 ≤ (w.extractLsb' 32 3).toNat → w.extractLsb' 8 8 = w'.extractLsb' 8 8) →
    (4 ≤ (w.extractLsb' 32 3).toNat → w.extractLsb' 0 8 = w'.extractLsb' 0 8) →
    acceptDec w s = acceptDec w' s)

/-- R48. A written beat with the right number of lanes assembles to a word that decodes to its operation with those lanes; a
beat with another number of lanes does not assemble. -/
def Obligations.WrittenBeatAssembles : Prop :=
  ∀ b : Written,
    (b.lanes.length = b.op.cnt →
      ∃ w i, assemble b = some w ∧ decode w = .ok i ∧ clearIgnored w = w ∧ i.op = b.op ∧ i.lanes = b.lanes) ∧
    (b.lanes.length ≠ b.op.cnt → assemble b = none)

/-- R48 and spec/95_test_vectors.md: words written out in the spec decode to the beats they stand for. -/
def Obligations.WrittenWordsDecode : Prop :=
  decode (.enc 0x3666F6F#27) = .ok (.encG3 0x66 0x6F 0x6F) ∧
  decode (.enc 0x5660000#27) = .ok (.encT1 0x66) ∧
  decode (.enc 0x6666F00#27) = .ok (.encT2 0x66 0x6F) ∧
  decode (.dec 0x45A6D3976#36) = .ok (.decG4 0x5A 0x6D 0x39 0x76) ∧
  decode (.dec 0xC5A672E2E#36) = .ok (.decL4 0x5A 0x67 0x2E 0x2E) ∧
  decode (.dec 0xB5A6D3800#36) = .ok (.decL3 0x5A 0x6D 0x38) ∧
  decode (.dec 0x800000000#36) = .ok .decE0 ∧
  decode (.dec 0x55A670000#36) = .error .decCntRange ∧
  assemble { op := .encT1, lanes := [0x66] } = some (.enc 0x5660000#27)

/-! ## Reset, faults and flags -/

/-- R19. In the state after reset every register is 0, and both ports are ready from the first cycle with `rst` = 0. -/
def Obligations.ResetLeavesEveryRegisterZero : Prop :=
  State.reset.encOlen = 0 ∧ State.reset.encFault = false ∧ State.reset.decOlen = 0 ∧
  State.reset.decOpen = false ∧ State.reset.decErr = false ∧ State.reset.decFault = false ∧
  encReady false State.reset = true ∧ decReady false State.reset = true ∧ decQuiescent State.reset = true

/-- R107. A cycle with `rst` = 1 puts every register to 0 from any state, accepts no beat and produces no response; both
`ready` outputs are 0 in it. No other cycle clears a fault register. The two clauses about the output signals (no response,
the fault registers from before the cycle) rest on R16, R17 and on the model's own choices: `LAT` = 0, log entry 4
(DEDUCED), and no value of the response signals without a response, log entry 9 (DESIGN CHOICE). -/
def Obligations.ResetWinsOverEveryBeat : Prop :=
  (∀ (s : State) (c : Cycle) (rest : List Cycle), s.input = c :: rest → c.rst = true →
    step s = .next {
      cfg := s.cfg
      encOlen := 0
      encFault := false
      decOlen := 0
      decOpen := false
      decErr := false
      decFault := false
      input := rest
      encOut := s.encOut
      decOut := s.decOut } ∧
    encPins c s = { ready := false, resp := none, fault := s.encFault } ∧
    decPins c s = { ready := false, resp := none, fault := s.decFault }) ∧
  (∀ s t : State, step s = .next t →
    (s.encFault = true → t.encFault = false → ∃ c ∈ s.input.head?, c.rst = true) ∧
    (s.decFault = true → t.decFault = false → ∃ c ∈ s.input.head?, c.rst = true))

/-- R94, R99, R107. A faulted port stays out of service, keeps its registers and answers nothing in every step that is no
reset. -/
def Obligations.OnlyResetReturnsAFaultedPort : Prop :=
  ∀ s t : State, step s = .next t → (∀ c ∈ s.input.head?, c.rst = false) →
    (s.encFault = true → SameEncPort s t) ∧ (s.decFault = true → SameDecPort s t)

/-- R18. A beat that is presented to a port that is not ready has no effect and no response: the step only lets it go by. -/
def Obligations.UnacceptedBeatHasNoEffect : Prop :=
  (∀ (i : Instr) (s : State), portFaulted i.port s = true → exec i s = .next s) ∧
  (∀ (w : EncWord) (s : State), s.encFault = true → acceptEnc w s = .next s) ∧
  (∀ (w : DecWord) (s : State), s.decFault = true → acceptDec w s = .next s)

/-- R11. What each of the four flags holds after a clock cycle: set and cleared by the events the rule lists and by no
other. -/
def Obligations.FlagsMoveOnlyAsListed : Prop :=
  ∀ (s t : State) (c : Cycle) (rest : List Cycle), s.input = c :: rest → step s = .next t →
    (c.rst = true →
      t.encFault = false ∧ t.decFault = false ∧ t.decErr = false ∧ t.decOpen = false) ∧
    (c.rst = false →
      (t.encFault = true ↔ s.encFault = true ∨
        ∃ w ∈ c.enc, w.getLsbD 26 = false ∧ w.extractLsb' 24 2 ≠ 3#2) ∧
      ((s.decFault = true ∨ c.dec = none) →
        t.decFault = s.decFault ∧ t.decErr = s.decErr ∧ t.decOpen = s.decOpen) ∧
      (∀ w ∈ c.dec, s.decFault = false →
        (t.decFault = true ↔ w.getLsbD 35 = false ∧ w.extractLsb' 32 3 ≠ 4#3 ∨ 4#3 < w.extractLsb' 32 3 ∨
          w.getLsbD 35 = true ∧ w.extractLsb' 32 3 = 0#3 ∧ s.decOpen = true) ∧
        (t.decFault = false → w.getLsbD 35 = true → t.decErr = false ∧ t.decOpen = false) ∧
        (t.decFault = false → w.getLsbD 35 = false → t.decOpen = true ∧
          (t.decErr = true ↔ s.decErr = true ∨
            ∃ x ∈ [w.extractLsb' 24 8, w.extractLsb' 16 8, w.extractLsb' 8 8, w.extractLsb' 0 8],
              isDataChar x = false)) ∧
        (t.decFault = true → t.decErr = s.decErr ∧ t.decOpen = s.decOpen)))

/-- R98, R99. A message that has failed stays failed until it ends: a legal beat of it produces no byte, answers `fail` = 1
and does not count; the beat with `last` = 1 clears the failure. -/
def Obligations.FailedMessageStaysFailed : Prop :=
  ∀ (i : Instr) (s : State), i.port = .dec → i ≠ .decE0 → s.decFault = false → s.decErr = true →
    s.decOlen < 2 ^ s.cfg.lenW →
    exec i s = .next { s with
      decOlen := if i.isLast = true then 0 else s.decOlen
      decErr := !i.isLast
      decOpen := !i.isLast
      decOut := s.decOut ++
        [{ q := 0, qcnt := 0, done := i.isLast, fail := true, total := s.decOlen, fault := false }] }

/-- R65, R95. No legal ENC beat can fail: its response has `fault` = 0, ends the message exactly when the operation does,
and the port stays in service. -/
def Obligations.LegalEncBeatsNeverFail : Prop :=
  ∀ (i : Instr) (s : State), i.port = .enc → s.encFault = false →
    ∃ t r, exec i s = .next t ∧ t.encFault = false ∧ t.encOut = s.encOut ++ [r] ∧ r.fault = false ∧
      r.done = i.isLast

/-! ## Frames, ports and steps -/

/-- R54, R104: the frame of the ENC operations. An ENC beat changes no DEC register, no parameter, no cycle to come, not
`ENC_FAULT`, and no response already given; at most one response is added. -/
def Obligations.EncBeatFrame : Prop :=
  ∀ (i : Instr) (s t : State), i.port = .enc → exec i s = .next t →
    SameDecPort s t ∧ t.cfg = s.cfg ∧ t.input = s.input ∧ t.encFault = s.encFault ∧
    (i.isLast = true → s.encFault = false → t.encOlen = 0) ∧
    (t = s ∨ ∃ r, t.encOut = s.encOut ++ [r])

/-- R70, R104: the frame of the DEC operations. A DEC beat changes no ENC register, no parameter, no cycle to come and no
response already given; only `DEC.E0` may set `DEC_FAULT`, and it then changes no other register; an operation that ends a
message without a Fault leaves `DEC_OLEN`, `DEC_OPEN` and `DEC_ERR` 0; at most one response is added. -/
def Obligations.DecBeatFrame : Prop :=
  ∀ (i : Instr) (s t : State), i.port = .dec → exec i s = .next t →
    SameEncPort s t ∧ t.cfg = s.cfg ∧ t.input = s.input ∧
    (i ≠ .decE0 → t.decFault = s.decFault) ∧
    (t.decFault ≠ s.decFault → t.decOlen = s.decOlen ∧ t.decOpen = s.decOpen ∧ t.decErr = s.decErr) ∧
    (i.isLast = true → t.decFault = false → t.decOlen = 0 ∧ t.decOpen = false ∧ t.decErr = false) ∧
    (t = s ∨ ∃ r, t.decOut = s.decOut ++ [r])

/-- R34 (c). An ENC beat and a DEC beat commute: in either order they give the same state, the same two responses among
it. -/
def Obligations.PortsCommute : Prop :=
  ∀ (e : EncWord) (d : DecWord) (s : State),
    andThen (acceptEnc e s) (acceptDec d) = andThen (acceptDec d s) (acceptEnc e)

/-- R18, R34. A cycle that presents a beat on both ports is the two steps in either order. -/
def Obligations.BothPortsInOneCycle : Prop :=
  ∀ (s : State) (e : EncWord) (d : DecWord) (rest : List Cycle),
    s.input = { rst := false, enc := some e, dec := some d } :: rest →
    step s = runSteps 2 { s with input := Cycle.ofBeat (.enc e) :: Cycle.ofBeat (.dec d) :: rest } ∧
    step s = runSteps 2 { s with input := Cycle.ofBeat (.dec d) :: Cycle.ofBeat (.enc e) :: rest }

/-- R34 (a), R104. Noninterference: what the DEC port holds and answers after a cycle does not depend on the ENC port, on
the ENC beats or on the cycles to come, and the same the other way round. -/
def Obligations.PortsDoNotInterfere : Prop :=
  ∀ (s s' t t' : State) (c c' : Cycle) (rest rest' : List Cycle),
    s.input = c :: rest → s'.input = c' :: rest' → c.rst = c'.rst → s.cfg = s'.cfg →
    step s = .next t → step s' = .next t' →
    (c.dec = c'.dec → SameDecPort s s' → SameDecPort t t') ∧
    (c.enc = c'.enc → SameEncPort s s' → SameEncPort t t')

/-- R18. A step runs the decoded operation: when the next cycle presents, with `rst` = 0, one beat that decodes to `i`, the
step is `exec` of `i` on the state with that cycle taken. -/
def Obligations.StepRunsTheDecodedInstruction : Prop :=
  ∀ (s : State) (b : Beat) (i : Instr) (rest : List Cycle), s.input = Cycle.ofBeat b :: rest →
    decode b = .ok i → i.wellFormed = true → step s = exec i { s with input := rest }

/-- R46. When the next cycle presents an illegal beat to a port in service, the step takes the Fault. -/
def Obligations.StepTakesTheFaultOfAnIllegalBeat : Prop :=
  ∀ (s : State) (b : Beat) (code : FaultCode) (rest : List Cycle), s.input = Cycle.ofBeat b :: rest →
    decode b = .error code → portFaulted code.port s = false →
    step s = .next (raiseFault code { s with input := rest })

/-- R110, R113. The machine never stops: from every state a step answers a next state. -/
def Obligations.EveryStepAnswersANextState : Prop :=
  ∀ s : State, ∃ t, step s = .next t

/-- R16, R17, R18. The output signals of a cycle are what the step does: each port's response in the cycle, if there is
one, is the response that the step gives, and it is present exactly when a beat is presented and the port is ready; after
the step the `fault` output of an idle port shows the fault register. It is about a block with `LAT` = 0, the default of
R113, which the model takes (log entry 4, DEDUCED): with `LAT` of 1 or more the response, and the fault output with it, come
in a later cycle. That the response signals have no value without a response is log entry 9 (DESIGN CHOICE). -/
def Obligations.OutputSignalsAgreeWithTheStep : Prop :=
  ∀ (s t : State) (c : Cycle) (rest : List Cycle), s.input = c :: rest → step s = .next t →
    t.encOut = s.encOut ++ (encPins c s).resp.toList ∧
    t.decOut = s.decOut ++ (decPins c s).resp.toList ∧
    ((encPins c s).resp.isSome = true ↔ c.enc.isSome = true ∧ c.rst = false ∧ s.encFault = false) ∧
    ((decPins c s).resp.isSome = true ↔ c.dec.isSome = true ∧ c.rst = false ∧ s.decFault = false) ∧
    (c.rst = false → (encPins c s).fault = t.encFault ∧ (decPins c s).fault = t.decFault) ∧
    (encPins Cycle.idle t).fault = t.encFault ∧ (decPins Cycle.idle t).fault = t.decFault

/-- R5, R18, R34 (b). A step keeps the parameters, takes at most one of the host's cycles, and adds at most one response on
each port, after those already given. -/
def Obligations.StepKeepsParametersAndPastResponses : Prop :=
  ∀ s t : State, step s = .next t →
    t.cfg = s.cfg ∧ t.input = s.input.tail ∧
    (∃ e, t.encOut = s.encOut ++ e ∧ e.length ≤ 1) ∧ (∃ d, t.decOut = s.decOut ++ d ∧ d.length ≤ 1)

/-! ## Invariants -/

/-- The state after reset meets the invariant. That `LEN_W` is 32 in it is the spec's default (R5), chosen by the model
(log entry 3). -/
def Obligations.ResetStateIsWellFormed : Prop := State.reset.Wf

/-- R8, R41, R42, R63, R78. Every step keeps the invariant, from every state that meets it: the counters stay `LEN_W`-bit
numbers, `ENC_OLEN` a multiple of 4, a closed DEC message leaves `DEC_OLEN` and `DEC_ERR` at 0, and every response has
legal fields. -/
def Obligations.StepKeepsStateWellFormed : Prop :=
  ∀ s t : State, s.Wf → step s = .next t → t.Wf

/-- R78. In every state that beats of any kind reach from a clean state of the DEC port, a closed port is clean and
`DEC_OLEN` is three times the number of groups of the open message that produced bytes, modulo 2^`LEN_W`. -/
def Obligations.DecCounterCountsGroupsOfThree : Prop :=
  ∀ (bs : List Beat) (s : State), DecClean s →
    ∃ t rs, runSteps bs.length (presentBeats bs s) = .next t ∧ t.decOut = s.decOut ++ rs ∧ t.ClosedIsClean ∧
      t.decOlen = 3 * ((openResponses rs).filter (fun r => r.qcnt == 3#2)).length % 2 ^ s.cfg.lenW

/-- R11, R112. `DEC_OPEN` says whether a message is open: after any DEC operations run from a clean state without a Fault,
it is 1 exactly when the last of them was not the last of its message. -/
def Obligations.DecOpenTracksTheOpenMessage : Prop :=
  ∀ (is : List Instr) (s t : State), DecClean s → (∀ i ∈ is, i.port = .dec) →
    runBeats is s = .next t → t.decFault = false → t.decOpen = messageOpen is

/-- R30, R112. A message that the host frames as it must runs without a Fault, gives one response a beat, of which the last
has `done` = 1 and no other has, and leaves the port's per-message registers at their reset values. -/
def Obligations.WellFramedMessageEndsClean : Prop :=
  (∀ (is : List Instr) (s : State), wellFramed .enc is = true → s.encFault = false →
    ∃ rs r, runBeats is s = .next { s with encOlen := 0, encOut := s.encOut ++ (rs ++ [r]) } ∧
      rs.length + 1 = is.length ∧ r.done = true ∧ r.fault = false ∧
      ∀ x ∈ rs, x.done = false ∧ x.fault = false) ∧
  (∀ (is : List Instr) (s : State), wellFramed .dec is = true → DecClean s →
    ∃ rs r, runBeats is s = .next { s with decOut := s.decOut ++ (rs ++ [r]) } ∧
      rs.length + 1 = is.length ∧ r.done = true ∧ r.fault = false ∧
      ∀ x ∈ rs, x.done = false ∧ x.fault = false)

/-! ## Messages -/

/-- R61. The encoder computes `encode(B)`: the responses to the beats of `ENC.MSG B` deliver it, the last one with `done` = 1
and `total` its length modulo 2^`LEN_W`; nothing else of the state moves and `ENC_OLEN` is 0 again. The second framing of
R49, full groups and then `ENC.E0`, gives the same. -/
def Obligations.EncMessageDeliversTheEncoding : Prop :=
  ∀ (b : List Byte) (s : State), EncClean s →
    ∀ is : List Instr, is = encMsg b ∨ (b ≠ [] ∧ b.length % 3 = 0 ∧ is = encMsgClosed b) →
      ∃ rs r, runBeats is s = .next { s with encOut := s.encOut ++ (rs ++ [r]) } ∧
        textOf (rs ++ [r]) = encodeBytes b ∧
        r.done = true ∧ r.total = (encodeBytes b).length % 2 ^ s.cfg.lenW ∧
        (∀ x ∈ rs, x.done = false) ∧ (∀ x ∈ rs ++ [r], x.fault = false)

/-- R79. The decoder computes `decode(T)`: when it is `Ok`, the responses to the beats of `DEC.MSG T` deliver it and every
one has `fail` = 0; when it is `DecodeError`, the last response has `fail` = 1 and what left before is what the groups
before the first failing group decode to. The DEC registers are clean again. -/
def Obligations.DecMessageDeliversTheDecoding : Prop :=
  ∀ (text : List Byte) (s : State), DecClean s →
    ∃ rs r, runBeats (decMsg text) s = .next { s with decOut := s.decOut ++ (rs ++ [r]) } ∧ r.done = true ∧
      (∀ x ∈ rs, x.done = false) ∧ (∀ x ∈ rs ++ [r], x.fault = false) ∧
      (∀ out, decodeText text = some out →
        bytesOf (rs ++ [r]) = out ∧ (∀ x ∈ rs ++ [r], x.fail = false) ∧ r.total = out.length % 2 ^ s.cfg.lenW) ∧
      (decodeText text = none → r.fail = true ∧ bytesOf (rs ++ [r]) = goodPrefix text)

/-- R80. Round trip: decoding the encoding of any byte sequence gives it back. -/
def Obligations.DecodeOfEncodeIsTheMessage : Prop :=
  ∀ b : List Byte, decodeText (encodeBytes b) = some b

/-- R61, R79, R80. The round trip through the block itself: the text that the ENC port delivers for `B`, presented on the
DEC port, delivers `B` with no failure. -/
def Obligations.BlockRoundTrip : Prop :=
  ∀ (b : List Byte) (s : State), EncClean s → DecClean s →
    ∃ t u : State, runBeats (encMsg b) s = .next t ∧
      runBeats (decMsg (textOf (t.encOut.drop s.encOut.length))) t = .next u ∧
      bytesOf (u.decOut.drop s.decOut.length) = b ∧
      (∀ r ∈ u.decOut.drop s.decOut.length, r.fail = false ∧ r.fault = false)

/-- R62, R92. Length law: the text of n bytes has `encodedLength(n)` characters, 0 for no byte and a positive multiple of 4
otherwise; the last response shows that number modulo 2^`LEN_W`, without a fault, and it is the number itself exactly when
n is at most 3·2^(`LEN_W` − 2) − 3. -/
def Obligations.EncodedTextHasTheEncodedLength : Prop :=
  (∀ b : List Byte, (encodeBytes b).length = encodedLength b.length ∧ (encodeBytes b).length % 4 = 0 ∧
    ((encodeBytes b).length = 0 ↔ b = [])) ∧
  (∀ (b : List Byte) (s t : State), EncClean s → runBeats (encMsg b) s = .next t →
    t.encFault = false ∧ ∃ r ∈ t.encOut.getLast?, r.fault = false ∧ r.done = true ∧
      r.total = encodedLength b.length % 2 ^ s.cfg.lenW) ∧
  (∀ lenW n : Nat, 3 ≤ lenW →
    (encodedLength n % 2 ^ lenW = encodedLength n ↔ n ≤ 3 * 2 ^ (lenW - 2) - 3))

/-- R63, R64. Every valid lane of every ENC response is in the 65-symbol alphabet, none is 0x00, and the padding character
stands only in lane 3 of `ENC.T2` and in lanes 2 and 3 of `ENC.T1`; in an encoding it is exactly the suffix that the number
of bytes calls for. -/
def Obligations.EncodingStaysInTheAlphabet : Prop :=
  (∀ (i : Instr) (s t : State) (r : EncResponse), i.port = .enc → exec i s = .next t → t.encOut = s.encOut ++ [r] →
    (∀ c ∈ r.validLanes, inAlphabet c ∧ c ≠ 0x00#8) ∧
    r.validLanes.map (· == padChar) =
      if i.op = .encT2 then [false, false, false, true]
      else if i.op = .encT1 then [false, false, true, true]
      else if i.op = .encE0 then [] else [false, false, false, false]) ∧
  (∀ b : List Byte,
    (encodeBytes b).count padChar = (3 - b.length % 3) % 3 ∧
    trailingPads (encodeBytes b) = (3 - b.length % 3) % 3)

/-- R81. Rejection: a character outside the alphabet, a padding character with a data character after it, three or more
trailing padding characters, or a length that is no multiple of 4 is a `DecodeError`. -/
def Obligations.BadTextIsRejected : Prop :=
  ∀ t : List Byte,
    ((∃ c ∈ t, ¬ inAlphabet c) → decodeText t = none) ∧
    (padBeforeData t = true → decodeText t = none) ∧
    (3 ≤ trailingPads t → decodeText t = none) ∧
    (t.length % 4 ≠ 0 → decodeText t = none)

/-- R82. A decoded text has exactly 3 bytes a group less its trailing padding characters; and for every text, failed or
not, at most `(len div 4) * 3` bytes leave the DEC port, which is `decodedCapacity(len) - 2`. -/
def Obligations.DecodedBytesAreBounded : Prop :=
  (∀ t out : List Byte, t ≠ [] → decodeText t = some out →
    trailingPads t ≤ 2 ∧ out.length + trailingPads t = t.length / 4 * 3) ∧
  (∀ (t : List Byte) (s u : State), DecClean s → runBeats (decMsg t) s = .next u →
    (bytesOf (u.decOut.drop s.decOut.length)).length + 2 ≤ decodedCapacity t.length)

/-- R87, R88, R89, R90. The size functions in closed form; `encodedLength` is the least multiple of 4 that is at least 4n/3; and in an unsigned W-bit integer
`encodedCapacity` is exact up to the bound the rule derives. -/
def Obligations.SizeFunctionsAreExact : Prop :=
  (∀ n : Nat, encodedLength n = (n + 2) / 3 * 4 ∧ encodedCapacity n = (n + 2) / 3 * 4 + 1 ∧
    decodedCapacity n = n / 4 * 3 + 2) ∧
  (∀ n : Nat, encodedLength n % 4 = 0 ∧ 4 * n ≤ 3 * encodedLength n ∧
    (∀ m, m % 4 = 0 → 4 * n ≤ 3 * m → encodedLength n ≤ m) ∧
    encodedCapacity n = encodedLength n + 1) ∧
  (∀ n len : Nat, len = encodedLength n → n + 2 ≤ decodedCapacity len) ∧
  (∀ w n : Nat, 3 ≤ w → n ≤ 3 * (2 ^ (w - 2) - 1) → encodedCapacity n ≤ 2 ^ w - 3)
end

