-- ==== Sys2Proof/Laws/Bits.lean ====
section
/-! SUPPORT. The fields of a beat that is written as a concatenation of its fields (R39, R40). -/

namespace Sys2Proof.Laws

section Enc

variable (k : BitVec 3) (b0 b1 b2 : Byte)

@[simp] theorem encSelect_append : encSelect (k ++ b0 ++ b1 ++ b2) = k := by
  simp [-Nat.reduceAdd, encSelect, BitVec.extractLsb'_append_eq_ite]

@[simp] theorem encB0_append : encB0 (k ++ b0 ++ b1 ++ b2) = b0 := by
  simp [-Nat.reduceAdd, encB0, BitVec.extractLsb'_append_eq_ite]

@[simp] theorem encB1_append : encB1 (k ++ b0 ++ b1 ++ b2) = b1 := by
  simp [-Nat.reduceAdd, encB1, BitVec.extractLsb'_append_eq_ite]

@[simp] theorem encB2_append : encB2 (k ++ b0 ++ b1 ++ b2) = b2 := by
  simp [-Nat.reduceAdd, encB2, BitVec.extractLsb'_append_eq_ite]

end Enc

section Dec

variable (k : BitVec 4) (c0 c1 c2 c3 : Byte)

@[simp] theorem decSelect_append : decSelect (k ++ c0 ++ c1 ++ c2 ++ c3) = k := by
  simp [-Nat.reduceAdd, decSelect, BitVec.extractLsb'_append_eq_ite]

@[simp] theorem decC0_append : decC0 (k ++ c0 ++ c1 ++ c2 ++ c3) = c0 := by
  simp [-Nat.reduceAdd, decC0, BitVec.extractLsb'_append_eq_ite]

@[simp] theorem decC1_append : decC1 (k ++ c0 ++ c1 ++ c2 ++ c3) = c1 := by
  simp [-Nat.reduceAdd, decC1, BitVec.extractLsb'_append_eq_ite]

@[simp] theorem decC2_append : decC2 (k ++ c0 ++ c1 ++ c2 ++ c3) = c2 := by
  simp [-Nat.reduceAdd, decC2, BitVec.extractLsb'_append_eq_ite]

@[simp] theorem decC3_append : decC3 (k ++ c0 ++ c1 ++ c2 ++ c3) = c3 := by
  simp [-Nat.reduceAdd, decC3, BitVec.extractLsb'_append_eq_ite]

end Dec

/-! ## The selecting bits are `last ‖ cnt` -/

/-- R44: bits 26:24 are `last ‖ cnt`. -/
theorem encSelect_eq (w : EncWord) : encSelect w = (BitVec.ofBool (encLast w) ++ encCnt w : BitVec (1 + 2)) := by
  apply BitVec.eq_of_getLsbD_eq
  intro i hi
  rw [BitVec.getLsbD_append]
  obtain rfl | rfl | rfl : i = 0 ∨ i = 1 ∨ i = 2 := by omega
  all_goals simp [encSelect, encLast, encCnt]

/-- R45: bits 35:32 are `last ‖ cnt`. -/
theorem decSelect_eq (w : DecWord) : decSelect w = (BitVec.ofBool (decLast w) ++ decCnt w : BitVec (1 + 3)) := by
  apply BitVec.eq_of_getLsbD_eq
  intro i hi
  rw [BitVec.getLsbD_append]
  obtain rfl | rfl | rfl | rfl : i = 0 ∨ i = 1 ∨ i = 2 ∨ i = 3 := by omega
  all_goals simp [decSelect, decLast, decCnt]

end Sys2Proof.Laws
end

