-- ==== Sys2Proof/Laws/Rom.lean ====
section
/-! SUPPORT. The ROMs have an entry for every address, and what a lane holds by its class. -/

namespace Sys2Proof.Laws

open Sys2Proof.Machine

/-- R20: `FWD` has 64 entries, so the default of `fwd` is never read. -/
theorem fwdRom_length : fwdRom.length = 64 := rfl

theorem revBlank_length : revBlank.length = 16 := List.length_replicate

theorem revLowRows_length : revLowRows.length = 128 := by
  simp only [revLowRows, List.length_append, revBlank_length, show revRow2.length = 16 from rfl,
    show revRow3.length = 16 from rfl, show revRow4.length = 16 from rfl, show revRow5.length = 16 from rfl,
    show revRow6.length = 16 from rfl, show revRow7.length = 16 from rfl]

theorem revHighRows_length : revHighRows.length = 128 := by
  simp only [revHighRows, List.length_append, revBlank_length]

/-- R20: `REV` has 256 entries, so the default of `rev` is never read. -/
theorem revRom_length : revRom.length = 256 := by
  rw [revRom, List.length_append, revLowRows_length, revHighRows_length]

/-- The padding character is no data character. -/
@[simp] theorem isDataChar_padChar : isDataChar padChar = false := by decide

/-- A lane that holds padding is not bad (R66). -/
@[simp] theorem classify_padChar : classify padChar = { pad := true, bad := false, val := 0 } := by decide

/-- A data character is no padding (R66). -/
theorem ne_padChar_of_isDataChar {c : Byte} (h : isDataChar c = true) : c ≠ padChar := by
  rintro rfl
  simp at h

/-- The class of a data character (R66). -/
theorem classify_of_isDataChar {c : Byte} (h : isDataChar c = true) :
    classify c = { pad := false, bad := false, val := RevEntry.val (rev c) } := by
  have hp : (c == padChar) = false := by simpa using ne_padChar_of_isDataChar h
  have hi : RevEntry.inv (rev c) = false := by simpa [isDataChar] using h
  simp [classify, hp, hi]

/-- The class of a character that is neither data nor padding (R66). -/
theorem bad_of_not_inAlphabet {c : Byte} (h : isDataChar c = false) (hp : c ≠ padChar) :
    (classify c).bad = true := by
  have hi : RevEntry.inv (rev c) = true := by simpa [isDataChar] using h
  simp [classify, hp, hi]

/-- A lane is bad exactly when it holds neither a data character nor padding (R66). -/
theorem bad_eq (c : Byte) : (classify c).bad = (!isDataChar c && !(c == padChar)) := by
  simp [classify, isDataChar]

/-- A lane's padding flag (R66). -/
@[simp] theorem pad_eq (c : Byte) : (classify c).pad = (c == padChar) := rfl

/-- A lane's value (R66). -/
@[simp] theorem val_eq (c : Byte) : (classify c).val = RevEntry.val (rev c) := rfl

end Sys2Proof.Laws
end

