-- ==== Sys2Proof/Laws/Group.lean ====
section
/-! SUPPORT. When a full group of characters is good (spec/41_decoder.md R68, R71, R72), and how many bytes it gives. -/

namespace Sys2Proof.Laws

open Sys2Proof.Machine

theorem inv_eq (c : Byte) : RevEntry.inv (rev c) = !isDataChar c := by simp [isDataChar]

/-- No data character is the padding character. -/
theorem not_pad_of_isDataChar (c : Byte) : isDataChar c = true → (c == padChar) = false :=
  fun h => by simpa using ne_padChar_of_isDataChar h

/-- A group that is not last is good when its four characters are data characters (R71). -/
theorem decGroup_ok_continuing (c0 c1 c2 c3 : Byte) : (decGroup false 4#3 c0 c1 c2 c3).ok =
    (isDataChar c0 && isDataChar c1 && isDataChar c2 && isDataChar c3) := by
  simp only [decGroup, classify, inv_eq, pv, inLane, lengthError]
  have h0 := not_pad_of_isDataChar c0
  have h1 := not_pad_of_isDataChar c1
  have h2 := not_pad_of_isDataChar c2
  have h3 := not_pad_of_isDataChar c3
  revert h0 h1 h2 h3
  generalize isDataChar c0 = d0
  generalize isDataChar c1 = d1
  generalize isDataChar c2 = d2
  generalize isDataChar c3 = d3
  generalize (c0 == padChar) = p0
  generalize (c1 == padChar) = p1
  generalize (c2 == padChar) = p2
  generalize (c3 == padChar) = p3
  revert d0 d1 d2 d3 p0 p1 p2 p3
  decide

/-- A last full group is good with no, one or two trailing padding characters after data characters (R72). -/
theorem decGroup_ok_last (c0 c1 c2 c3 : Byte) : (decGroup true 4#3 c0 c1 c2 c3).ok =
    (isDataChar c0 && isDataChar c1 && ((isDataChar c2 && isDataChar c3) || (isDataChar c2 && c3 == padChar) ||
      (c2 == padChar && c3 == padChar))) := by
  simp only [decGroup, classify, inv_eq, pv, inLane, lengthError]
  have h0 := not_pad_of_isDataChar c0
  have h1 := not_pad_of_isDataChar c1
  have h2 := not_pad_of_isDataChar c2
  have h3 := not_pad_of_isDataChar c3
  revert h0 h1 h2 h3
  generalize isDataChar c0 = d0
  generalize isDataChar c1 = d1
  generalize isDataChar c2 = d2
  generalize isDataChar c3 = d3
  generalize (c0 == padChar) = p0
  generalize (c1 == padChar) = p1
  generalize (c2 == padChar) = p2
  generalize (c3 == padChar) = p3
  revert d0 d1 d2 d3 p0 p1 p2 p3
  decide

/-- A group that is not last gives three bytes. -/
theorem groupBytes_length_continuing (c0 c1 c2 c3 : Byte) :
    (groupBytes (decGroup false 4#3 c0 c1 c2 c3)).length = 3 := by
  simp [groupBytes, decGroup, lanes24, pv]

/-- The four lanes of an ENC response's `q`, written as four characters. -/
theorem lanes32_append (a b c d : Byte) : lanes32 (a ++ b ++ c ++ d) = [a, b, c, d] := by
  simp [-Nat.reduceAdd, lanes32, BitVec.extractLsb'_append_eq_ite]

/-- The three lanes of a DEC response's `q`, written as three bytes. -/
theorem lanes24_append (a b c : Byte) : lanes24 (a ++ b ++ c) = [a, b, c] := by
  simp [-Nat.reduceAdd, lanes24, BitVec.extractLsb'_append_eq_ite]

end Sys2Proof.Laws
end

