-- ==== Sys2Proof/Laws/State.lean ====
section
/-! SUPPORT. One lemma per field and named update of the state, so that no proof unfolds a record update. -/

namespace Sys2Proof.Laws

open Sys2Proof.Machine

/-! ## `giveEnc` -/

@[simp] theorem giveEnc_cfg (s : State) (r : EncResponse) : (s.giveEnc r).cfg = s.cfg := rfl
@[simp] theorem giveEnc_encOlen (s : State) (r : EncResponse) : (s.giveEnc r).encOlen = s.encOlen := rfl
@[simp] theorem giveEnc_encFault (s : State) (r : EncResponse) : (s.giveEnc r).encFault = s.encFault := rfl
@[simp] theorem giveEnc_decOlen (s : State) (r : EncResponse) : (s.giveEnc r).decOlen = s.decOlen := rfl
@[simp] theorem giveEnc_decOpen (s : State) (r : EncResponse) : (s.giveEnc r).decOpen = s.decOpen := rfl
@[simp] theorem giveEnc_decErr (s : State) (r : EncResponse) : (s.giveEnc r).decErr = s.decErr := rfl
@[simp] theorem giveEnc_decFault (s : State) (r : EncResponse) : (s.giveEnc r).decFault = s.decFault := rfl
@[simp] theorem giveEnc_input (s : State) (r : EncResponse) : (s.giveEnc r).input = s.input := rfl
@[simp] theorem giveEnc_encOut (s : State) (r : EncResponse) : (s.giveEnc r).encOut = s.encOut ++ [r] := rfl
@[simp] theorem giveEnc_decOut (s : State) (r : EncResponse) : (s.giveEnc r).decOut = s.decOut := rfl

/-! ## `giveDec` -/

@[simp] theorem giveDec_cfg (s : State) (r : DecResponse) : (s.giveDec r).cfg = s.cfg := rfl
@[simp] theorem giveDec_encOlen (s : State) (r : DecResponse) : (s.giveDec r).encOlen = s.encOlen := rfl
@[simp] theorem giveDec_encFault (s : State) (r : DecResponse) : (s.giveDec r).encFault = s.encFault := rfl
@[simp] theorem giveDec_decOlen (s : State) (r : DecResponse) : (s.giveDec r).decOlen = s.decOlen := rfl
@[simp] theorem giveDec_decOpen (s : State) (r : DecResponse) : (s.giveDec r).decOpen = s.decOpen := rfl
@[simp] theorem giveDec_decErr (s : State) (r : DecResponse) : (s.giveDec r).decErr = s.decErr := rfl
@[simp] theorem giveDec_decFault (s : State) (r : DecResponse) : (s.giveDec r).decFault = s.decFault := rfl
@[simp] theorem giveDec_input (s : State) (r : DecResponse) : (s.giveDec r).input = s.input := rfl
@[simp] theorem giveDec_encOut (s : State) (r : DecResponse) : (s.giveDec r).encOut = s.encOut := rfl
@[simp] theorem giveDec_decOut (s : State) (r : DecResponse) : (s.giveDec r).decOut = s.decOut ++ [r] := rfl

/-! ## `setEncOlen` -/

@[simp] theorem setEncOlen_cfg (s : State) (v : Nat) : (s.setEncOlen v).cfg = s.cfg := rfl
@[simp] theorem setEncOlen_encOlen (s : State) (v : Nat) : (s.setEncOlen v).encOlen = v := rfl
@[simp] theorem setEncOlen_encFault (s : State) (v : Nat) : (s.setEncOlen v).encFault = s.encFault := rfl
@[simp] theorem setEncOlen_decOlen (s : State) (v : Nat) : (s.setEncOlen v).decOlen = s.decOlen := rfl
@[simp] theorem setEncOlen_decOpen (s : State) (v : Nat) : (s.setEncOlen v).decOpen = s.decOpen := rfl
@[simp] theorem setEncOlen_decErr (s : State) (v : Nat) : (s.setEncOlen v).decErr = s.decErr := rfl
@[simp] theorem setEncOlen_decFault (s : State) (v : Nat) : (s.setEncOlen v).decFault = s.decFault := rfl
@[simp] theorem setEncOlen_input (s : State) (v : Nat) : (s.setEncOlen v).input = s.input := rfl
@[simp] theorem setEncOlen_encOut (s : State) (v : Nat) : (s.setEncOlen v).encOut = s.encOut := rfl
@[simp] theorem setEncOlen_decOut (s : State) (v : Nat) : (s.setEncOlen v).decOut = s.decOut := rfl

/-! ## `setDecMessage` -/

@[simp] theorem setDecMessage_cfg (s : State) (n : Nat) (e o : Bool) : (s.setDecMessage n e o).cfg = s.cfg := rfl
@[simp] theorem setDecMessage_encOlen (s : State) (n : Nat) (e o : Bool) : (s.setDecMessage n e o).encOlen = s.encOlen := rfl
@[simp] theorem setDecMessage_encFault (s : State) (n : Nat) (e o : Bool) : (s.setDecMessage n e o).encFault = s.encFault := rfl
@[simp] theorem setDecMessage_decOlen (s : State) (n : Nat) (e o : Bool) : (s.setDecMessage n e o).decOlen = n := rfl
@[simp] theorem setDecMessage_decOpen (s : State) (n : Nat) (e o : Bool) : (s.setDecMessage n e o).decOpen = o := rfl
@[simp] theorem setDecMessage_decErr (s : State) (n : Nat) (e o : Bool) : (s.setDecMessage n e o).decErr = e := rfl
@[simp] theorem setDecMessage_decFault (s : State) (n : Nat) (e o : Bool) : (s.setDecMessage n e o).decFault = s.decFault := rfl
@[simp] theorem setDecMessage_input (s : State) (n : Nat) (e o : Bool) : (s.setDecMessage n e o).input = s.input := rfl
@[simp] theorem setDecMessage_encOut (s : State) (n : Nat) (e o : Bool) : (s.setDecMessage n e o).encOut = s.encOut := rfl
@[simp] theorem setDecMessage_decOut (s : State) (n : Nat) (e o : Bool) : (s.setDecMessage n e o).decOut = s.decOut := rfl

/-! ## `resetRegisters` -/

@[simp] theorem resetRegisters_cfg (s : State) : (resetRegisters s).cfg = s.cfg := rfl
@[simp] theorem resetRegisters_encOlen (s : State) : (resetRegisters s).encOlen = 0 := rfl
@[simp] theorem resetRegisters_encFault (s : State) : (resetRegisters s).encFault = false := rfl
@[simp] theorem resetRegisters_decOlen (s : State) : (resetRegisters s).decOlen = 0 := rfl
@[simp] theorem resetRegisters_decOpen (s : State) : (resetRegisters s).decOpen = false := rfl
@[simp] theorem resetRegisters_decErr (s : State) : (resetRegisters s).decErr = false := rfl
@[simp] theorem resetRegisters_decFault (s : State) : (resetRegisters s).decFault = false := rfl
@[simp] theorem resetRegisters_input (s : State) : (resetRegisters s).input = s.input := rfl
@[simp] theorem resetRegisters_encOut (s : State) : (resetRegisters s).encOut = s.encOut := rfl
@[simp] theorem resetRegisters_decOut (s : State) : (resetRegisters s).decOut = s.decOut := rfl

/-! ## `presentBeats` -/

@[simp] theorem presentBeats_cfg (bs : List Beat) (s : State) : (presentBeats bs s).cfg = s.cfg := rfl
@[simp] theorem presentBeats_encOlen (bs : List Beat) (s : State) : (presentBeats bs s).encOlen = s.encOlen := rfl
@[simp] theorem presentBeats_encFault (bs : List Beat) (s : State) : (presentBeats bs s).encFault = s.encFault := rfl
@[simp] theorem presentBeats_decOlen (bs : List Beat) (s : State) : (presentBeats bs s).decOlen = s.decOlen := rfl
@[simp] theorem presentBeats_decOpen (bs : List Beat) (s : State) : (presentBeats bs s).decOpen = s.decOpen := rfl
@[simp] theorem presentBeats_decErr (bs : List Beat) (s : State) : (presentBeats bs s).decErr = s.decErr := rfl
@[simp] theorem presentBeats_decFault (bs : List Beat) (s : State) : (presentBeats bs s).decFault = s.decFault := rfl
@[simp] theorem presentBeats_input (bs : List Beat) (s : State) : (presentBeats bs s).input = bs.map Cycle.ofBeat ++ s.input := rfl
@[simp] theorem presentBeats_encOut (bs : List Beat) (s : State) : (presentBeats bs s).encOut = s.encOut := rfl
@[simp] theorem presentBeats_decOut (bs : List Beat) (s : State) : (presentBeats bs s).decOut = s.decOut := rfl

/-! ## `raiseFault`, by the port of its code -/

theorem raiseFault_enc (code : FaultCode) (s : State) (h : code.port = .enc) :
    raiseFault code s = State.giveEnc { s with encFault := true } encFaultResponse := by
  simp [raiseFault, h]

theorem raiseFault_dec (code : FaultCode) (s : State) (h : code.port = .dec) :
    raiseFault code s = State.giveDec { s with decFault := true } decFaultResponse := by
  simp [raiseFault, h]

@[simp] theorem raiseFault_cfg (code : FaultCode) (s : State) : (raiseFault code s).cfg = s.cfg := by
  cases code <;> rfl
@[simp] theorem raiseFault_encOlen (code : FaultCode) (s : State) : (raiseFault code s).encOlen = s.encOlen := by
  cases code <;> rfl
@[simp] theorem raiseFault_decOlen (code : FaultCode) (s : State) : (raiseFault code s).decOlen = s.decOlen := by
  cases code <;> rfl
@[simp] theorem raiseFault_decOpen (code : FaultCode) (s : State) : (raiseFault code s).decOpen = s.decOpen := by
  cases code <;> rfl
@[simp] theorem raiseFault_decErr (code : FaultCode) (s : State) : (raiseFault code s).decErr = s.decErr := by
  cases code <;> rfl
@[simp] theorem raiseFault_input (code : FaultCode) (s : State) : (raiseFault code s).input = s.input := by
  cases code <;> rfl

end Sys2Proof.Laws
end

