-- ==== Sys2Proof/Laws/Ops.lean ====
section
/-! SUPPORT. For each shared operation, one lemma that says everything it can do. Proofs cite these and do not unfold the
operations. -/

namespace Sys2Proof.Laws

open Sys2Proof.Machine

@[simp] theorem andThen_next (s : State) (f : State → Result) : andThen (.next s) f = f s := rfl

/-- A counter keeps a `LEN_W`-bit value (R91). -/
theorem countUp_lt (c : Config) (a n : Nat) : countUp c a n < c.modulus :=
  Nat.mod_lt _ (Nat.two_pow_pos _)

/-- Adding nothing to a `LEN_W`-bit value leaves it (R91). -/
theorem countUp_zero {c : Config} {a : Nat} (h : a < c.modulus) : countUp c a 0 = a := by
  simpa [countUp] using Nat.mod_eq_of_lt h

/-! ## The ports' steps -/

/-- The state after a legal ENC beat (R54). -/
def encAfter (last : Bool) (cnt : BitVec 2) (b0 b1 b2 : Byte) (s : State) : State :=
  (s.setEncOlen (if last then 0 else (encResponse last cnt b0 b1 b2 s).total)).giveEnc
    (encResponse last cnt b0 b1 b2 s)

/-- The state after a legal DEC beat (R70). -/
def decAfter (last : Bool) (cnt : BitVec 3) (c0 c1 c2 c3 : Byte) (s : State) : State :=
  (s.setDecMessage (if last then 0 else (decResponse last cnt c0 c1 c2 c3 s).total)
    (decErrAfter last (decResponse last cnt c0 c1 c2 c3 s).fail) (decOpenAfter last)).giveDec
    (decResponse last cnt c0 c1 c2 c3 s)

theorem encStep_faulted {last : Bool} {cnt : BitVec 2} {b0 b1 b2 : Byte} {s : State} (h : s.encFault = true) :
    encStep last cnt b0 b1 b2 s = .next s := by simp [encStep, h]

theorem encStep_illegal {last : Bool} {cnt : BitVec 2} {b0 b1 b2 : Byte} {s : State} {code : FaultCode}
    (h : s.encFault = false) (hf : encFraming last cnt = some code) :
    encStep last cnt b0 b1 b2 s = .next (raiseFault code s) := by simp [encStep, h, hf]

theorem encStep_legal {last : Bool} {cnt : BitVec 2} {b0 b1 b2 : Byte} {s : State}
    (h : s.encFault = false) (hf : encFraming last cnt = none) :
    encStep last cnt b0 b1 b2 s = .next (encAfter last cnt b0 b1 b2 s) := by simp [encStep, h, hf, encAfter]

theorem decStep_faulted {last : Bool} {cnt : BitVec 3} {c0 c1 c2 c3 : Byte} {s : State} (h : s.decFault = true) :
    decStep last cnt c0 c1 c2 c3 s = .next s := by simp [decStep, h]

theorem decStep_illegal {last : Bool} {cnt : BitVec 3} {c0 c1 c2 c3 : Byte} {s : State} {code : FaultCode}
    (h : s.decFault = false) (hf : decFraming last cnt s.decOpen = some code) :
    decStep last cnt c0 c1 c2 c3 s = .next (raiseFault code s) := by simp [decStep, h, hf]

theorem decStep_legal {last : Bool} {cnt : BitVec 3} {c0 c1 c2 c3 : Byte} {s : State}
    (h : s.decFault = false) (hf : decFraming last cnt s.decOpen = none) :
    decStep last cnt c0 c1 c2 c3 s = .next (decAfter last cnt c0 c1 c2 c3 s) := by
  simp [decStep, h, hf, decAfter]

/-- Only the one ENC code comes out of the ENC framing check. -/
theorem encFraming_some {last : Bool} {cnt : BitVec 2} {code : FaultCode} (h : encFraming last cnt = some code) :
    code = .encPartialNotLast := by
  unfold encFraming at h
  split at h <;> simp_all

/-- Only DEC codes come out of the DEC framing check. -/
theorem decFraming_port {last o : Bool} {cnt : BitVec 3} {code : FaultCode} (h : decFraming last cnt o = some code) :
    code.port = .dec := by
  unfold decFraming at h
  split at h
  · cases h; rfl
  split at h
  · cases h; rfl
  split at h
  · cases h; rfl
  · cases h

/-- An ENC operation is one step of the ENC port on fields that pass the framing check. -/
theorem exec_enc {i : Instr} (h : i.port = .enc) : ∃ cnt b0 b1 b2, encFraming i.isLast cnt = none ∧
    ∀ s, exec i s = encStep i.isLast cnt b0 b1 b2 s := by
  cases i with
  | encG3 b0 b1 b2 => exact ⟨3, b0, b1, b2, rfl, fun _ => rfl⟩
  | encG3L b0 b1 b2 => exact ⟨3, b0, b1, b2, rfl, fun _ => rfl⟩
  | encT2 b0 b1 => exact ⟨2, b0, b1, 0, rfl, fun _ => rfl⟩
  | encT1 b0 => exact ⟨1, b0, 0, 0, rfl, fun _ => rfl⟩
  | encE0 => exact ⟨0, 0, 0, 0, rfl, fun _ => rfl⟩
  | decG4 | decL4 | decL3 | decL2 | decL1 | decE0 => simp [Instr.port] at h

/-- A DEC operation is one step of the DEC port on fields that pass the framing check while no message is open; all but
`DEC.E0` pass it at any time. -/
theorem exec_dec {i : Instr} (h : i.port = .dec) : ∃ cnt c0 c1 c2 c3,
    (∀ o, (i = .decE0 → o = false) → decFraming i.isLast cnt o = none) ∧
    (i = .decE0 → decFraming i.isLast cnt true = some .decEmptyClose) ∧
    ∀ s, exec i s = decStep i.isLast cnt c0 c1 c2 c3 s := by
  cases i with
  | decG4 c0 c1 c2 c3 => exact ⟨4, c0, c1, c2, c3, fun _ _ => rfl, nofun, fun _ => rfl⟩
  | decL4 c0 c1 c2 c3 => exact ⟨4, c0, c1, c2, c3, fun _ _ => rfl, nofun, fun _ => rfl⟩
  | decL3 c0 c1 c2 => exact ⟨3, c0, c1, c2, 0, fun _ _ => rfl, nofun, fun _ => rfl⟩
  | decL2 c0 c1 => exact ⟨2, c0, c1, 0, 0, fun _ _ => rfl, nofun, fun _ => rfl⟩
  | decL1 c0 => exact ⟨1, c0, 0, 0, 0, fun _ _ => rfl, nofun, fun _ => rfl⟩
  | decE0 => exact ⟨0, 0, 0, 0, 0, fun o ho => by rw [ho rfl]; rfl, fun _ => rfl, fun _ => rfl⟩
  | encG3 | encG3L | encT2 | encT1 | encE0 => simp [Instr.port] at h

/-- What a legal beat gives is on its own port, and an illegal one's code is of its port. -/
theorem decodeEnc_port (w : EncWord) :
    (∃ i, decodeEnc w = .ok i ∧ i.port = .enc) ∨ decodeEnc w = .error .encPartialNotLast := by
  unfold decodeEnc
  repeat' split
  all_goals simp [Instr.port]

theorem decodeDec_port (w : DecWord) : (∃ i, decodeDec w = .ok i ∧ i.port = .dec) ∨
    ∃ code, decodeDec w = .error code ∧ code.port = .dec := by
  unfold decodeDec
  repeat' split
  all_goals simp [Instr.port, FaultCode.port]

/-- Everything that presenting an ENC beat can do: nothing (the port is out of service), a Fault, or one legal step. -/
theorem acceptEnc_cases (w : EncWord) (s : State) :
    (s.encFault = true ∧ acceptEnc w s = .next s) ∨
    (s.encFault = false ∧ acceptEnc w s = .next (raiseFault .encPartialNotLast s)) ∨
    (s.encFault = false ∧ ∃ last cnt b0 b1 b2, encFraming last cnt = none ∧
      acceptEnc w s = .next (encAfter last cnt b0 b1 b2 s)) := by
  unfold acceptEnc
  obtain ⟨i, hd, hp⟩ | hd := decodeEnc_port w
  · obtain ⟨cnt, b0, b1, b2, hf, he⟩ := exec_enc hp
    simp only [hd, he]
    cases h : s.encFault
    · exact .inr (.inr ⟨rfl, _, _, _, _, _, hf, encStep_legal h hf⟩)
    · exact .inl ⟨rfl, encStep_faulted h⟩
  · cases h : s.encFault <;> simp [hd, illegalBeat, portFaulted, FaultCode.port, h]

/-- Everything that presenting a DEC beat can do. -/
theorem acceptDec_cases (w : DecWord) (s : State) :
    (s.decFault = true ∧ acceptDec w s = .next s) ∨
    (s.decFault = false ∧ ∃ code : FaultCode, code.port = .dec ∧ acceptDec w s = .next (raiseFault code s)) ∨
    (s.decFault = false ∧ ∃ last cnt c0 c1 c2 c3, decFraming last cnt s.decOpen = none ∧
      acceptDec w s = .next (decAfter last cnt c0 c1 c2 c3 s)) := by
  unfold acceptDec
  obtain ⟨i, hd, hp⟩ | ⟨code, hd, hp⟩ := decodeDec_port w
  · obtain ⟨cnt, c0, c1, c2, c3, -, -, he⟩ := exec_dec hp
    simp only [hd, he]
    cases h : s.decFault
    · cases hf : decFraming i.isLast cnt s.decOpen with
      | none => exact .inr (.inr ⟨rfl, _, _, _, _, _, _, hf, decStep_legal h hf⟩)
      | some code => exact .inr (.inl ⟨rfl, code, decFraming_port hf, decStep_illegal h hf⟩)
    · exact .inl ⟨rfl, decStep_faulted h⟩
  · cases h : s.decFault
    · exact .inr (.inl ⟨rfl, code, hp, by simp [hd, illegalBeat, portFaulted, hp, h]⟩)
    · exact .inl ⟨rfl, by simp [hd, illegalBeat, portFaulted, hp, h]⟩

/-- Everything that a step can do: idle, reset, or the ENC port's part of the cycle and then the DEC port's. -/
theorem step_cases (s : State) :
    (s.input = [] ∧ step s = .next s) ∨
    (∃ c rest, s.input = c :: rest ∧ c.rst = true ∧ step s = .next (resetRegisters { s with input := rest })) ∨
    (∃ c rest, s.input = c :: rest ∧ c.rst = false ∧
      step s = andThen (encCycle c.enc { s with input := rest }) (decCycle c.dec)) := by
  rcases h : s.input with _ | ⟨c, rest⟩
  · exact .inl ⟨rfl, by simp [step, clockEdge, h]⟩
  · cases hc : c.rst
    · exact .inr (.inr ⟨c, rest, rfl, hc, by simp [step, clockEdge, h, runCycle, hc]⟩)
    · exact .inr (.inl ⟨c, rest, rfl, hc, by simp [step, clockEdge, h, runCycle, hc]⟩)

end Sys2Proof.Laws
end

