-- ==== Sys2Proof/Laws/PerInstr.lean ====
section
/-! SUPPORT. A law for every operation: its word goes to its own port and carries its row's selecting bits (R44, R45). -/

namespace Sys2Proof.Laws

/-- The selecting bits of the opcode table's row, `last ‖ cnt`, as a number (R44, R45). -/
def Selects.bits : Op → Nat
  | .encG3 => 0b011
  | .encG3L => 0b111
  | .encT2 => 0b110
  | .encT1 => 0b101
  | .encE0 => 0b100
  | .decG4 => 0b0100
  | .decL4 => 0b1100
  | .decL3 => 0b1011
  | .decL2 => 0b1010
  | .decL1 => 0b1001
  | .decE0 => 0b1000

/-- The word of the operation stands on its port with its row's selecting bits. -/
def Selects.Statement (i : Instr) : Prop :=
  match encode i with
  | .enc w => i.port = .enc ∧ (encSelect w).toNat = Selects.bits i.op
  | .dec w => i.port = .dec ∧ (decSelect w).toNat = Selects.bits i.op

theorem Selects.encG3 (b0 b1 b2 : Byte) : Selects.Statement (.encG3 b0 b1 b2) := by
  simp [Selects.Statement, encode, Instr.port, Instr.op, Selects.bits]

theorem Selects.encG3L (b0 b1 b2 : Byte) : Selects.Statement (.encG3L b0 b1 b2) := by
  simp [Selects.Statement, encode, Instr.port, Instr.op, Selects.bits]

theorem Selects.encT2 (b0 b1 : Byte) : Selects.Statement (.encT2 b0 b1) := by
  simp [Selects.Statement, encode, Instr.port, Instr.op, Selects.bits]

theorem Selects.encT1 (b0 : Byte) : Selects.Statement (.encT1 b0) := by
  simp [Selects.Statement, encode, Instr.port, Instr.op, Selects.bits]

theorem Selects.encE0 : Selects.Statement .encE0 := ⟨rfl, rfl⟩

theorem Selects.decG4 (c0 c1 c2 c3 : Byte) : Selects.Statement (.decG4 c0 c1 c2 c3) := by
  simp [Selects.Statement, encode, Instr.port, Instr.op, Selects.bits]

theorem Selects.decL4 (c0 c1 c2 c3 : Byte) : Selects.Statement (.decL4 c0 c1 c2 c3) := by
  simp [Selects.Statement, encode, Instr.port, Instr.op, Selects.bits]

theorem Selects.decL3 (c0 c1 c2 : Byte) : Selects.Statement (.decL3 c0 c1 c2) := by
  simp [Selects.Statement, encode, Instr.port, Instr.op, Selects.bits]

theorem Selects.decL2 (c0 c1 : Byte) : Selects.Statement (.decL2 c0 c1) := by
  simp [Selects.Statement, encode, Instr.port, Instr.op, Selects.bits]

theorem Selects.decL1 (c0 : Byte) : Selects.Statement (.decL1 c0) := by
  simp [Selects.Statement, encode, Instr.port, Instr.op, Selects.bits]

theorem Selects.decE0 : Selects.Statement .decE0 := ⟨rfl, rfl⟩

end Sys2Proof.Laws
end

