-- ==== Sys2Proof/Laws/Run.lean ====
section
/-! SUPPORT. Running beats one after another: no beat looks at the cycles to come, so a run peels off its first beat. -/

namespace Sys2Proof.Laws

open Sys2Proof.Machine

/-- An outcome with other cycles to come. -/
def withInput (l : List Cycle) (o : Result) : Result := andThen o (fun t => .next { t with input := l })

/-- An operation always answers a next state, and leaves the cycles to come. -/
theorem exec_next (i : Instr) (s : State) : ∃ t, exec i s = .next t ∧ t.input = s.input := by
  cases hp : i.port
  · obtain ⟨cnt, b0, b1, b2, hf, he⟩ := exec_enc hp
    rw [he]
    cases hF : s.encFault
    · exact ⟨_, encStep_legal hF hf, rfl⟩
    · exact ⟨_, encStep_faulted hF, rfl⟩
  · obtain ⟨cnt, c0, c1, c2, c3, hf, -, he⟩ := exec_dec hp
    rw [he]
    cases hF : s.decFault
    · cases hd : decFraming i.isLast cnt s.decOpen with
      | none => exact ⟨_, decStep_legal hF hd, rfl⟩
      | some c => exact ⟨_, decStep_illegal hF hd, by rw [raiseFault_dec _ _ (decFraming_port hd)]; rfl⟩
    · exact ⟨_, decStep_faulted hF, rfl⟩

/-- An operation does not look at the cycles to come. -/
theorem exec_input (i : Instr) (s : State) (l : List Cycle) :
    exec i { s with input := l } = withInput l (exec i s) := by
  obtain ⟨cfg, eo, ef, dl, op, er, df, inp, eO, dO⟩ := s
  cases hp : i.port
  · obtain ⟨cnt, b0, b1, b2, hf, he⟩ := exec_enc hp
    rw [he, he]
    cases ef
    · rw [encStep_legal rfl hf, encStep_legal rfl hf]; rfl
    · rw [encStep_faulted rfl, encStep_faulted rfl]; rfl
  · obtain ⟨cnt, c0, c1, c2, c3, hf, -, he⟩ := exec_dec hp
    rw [he, he]
    cases df
    · cases hd : decFraming i.isLast cnt op with
      | none => rw [decStep_legal rfl hd, decStep_legal rfl hd]; rfl
      | some c =>
        rw [decStep_illegal rfl hd, decStep_illegal rfl hd, raiseFault_dec _ _ (decFraming_port hd),
          raiseFault_dec _ _ (decFraming_port hd)]
        rfl
    · rw [decStep_faulted rfl, decStep_faulted rfl]; rfl

/-- An illegal beat does not look at the cycles to come. -/
theorem illegalBeat_input (code : FaultCode) (s : State) (l : List Cycle) :
    illegalBeat code { s with input := l } = { illegalBeat code s with input := l } := by
  obtain ⟨cfg, eo, ef, dl, op, er, df, inp, eO, dO⟩ := s
  cases code <;> cases ef <;> cases df <;> rfl

theorem acceptEnc_input (w : EncWord) (s : State) (l : List Cycle) :
    acceptEnc w { s with input := l } = withInput l (acceptEnc w s) := by
  unfold acceptEnc
  split
  · exact exec_input _ _ _
  · rw [illegalBeat_input]; rfl

theorem acceptDec_input (w : DecWord) (s : State) (l : List Cycle) :
    acceptDec w { s with input := l } = withInput l (acceptDec w s) := by
  unfold acceptDec
  split
  · exact exec_input _ _ _
  · rw [illegalBeat_input]; rfl

/-- What presenting a beat does, whichever its port. -/
def acceptBeat (b : Beat) (s : State) : Result :=
  match b with
  | .enc w => acceptEnc w s
  | .dec w => acceptDec w s

theorem acceptBeat_input (b : Beat) (s : State) (l : List Cycle) :
    acceptBeat b { s with input := l } = withInput l (acceptBeat b s) := by
  cases b
  · exact acceptEnc_input _ _ _
  · exact acceptDec_input _ _ _

/-- A step whose cycle presents one beat is that beat's acceptance. -/
theorem step_ofBeat (b : Beat) (s : State) (l : List Cycle) :
    step { s with input := Cycle.ofBeat b :: l } = acceptBeat b { s with input := l } := by
  cases b
  · simp only [step, clockEdge, runCycle, Cycle.ofBeat, encCycle, acceptBeat, Bool.false_eq_true, if_false]
    obtain ⟨-, h⟩ | ⟨-, h⟩ | ⟨-, _, _, _, _, _, -, h⟩ := acceptEnc_cases _ { s with input := l } <;>
      rw [h] <;> rfl
  · simp only [step, clockEdge, runCycle, Cycle.ofBeat, encCycle, decCycle, acceptBeat, Bool.false_eq_true, if_false,
      andThen_next]

/-- A run over beats peels off its first beat. -/
theorem runSteps_presentBeats_cons (b : Beat) (bs : List Beat) (s : State) :
    runSteps (bs.length + 1) (presentBeats (b :: bs) s) =
      andThen (acceptBeat b s) (fun t => runSteps bs.length (presentBeats bs { t with input := s.input })) := by
  show andThen (step { s with input := Cycle.ofBeat b :: (bs.map Cycle.ofBeat ++ s.input) }) (runSteps bs.length) = _
  rw [step_ofBeat, acceptBeat_input]
  cases acceptBeat b s <;> rfl

end Sys2Proof.Laws
end

