-- ==== Sys2Proof/Laws/Syntax.lean ====
section
/-! SUPPORT. Every instruction is well formed, and what the written form of a beat reads as. -/

namespace Sys2Proof.Laws

/-- The types leave no ill-formed instruction. -/
@[simp] theorem wellFormed_instr (i : Instr) : i.wellFormed = true := by
  cases i <;> rfl

/-- An instruction, written down, reads as itself (R48). -/
theorem instr?_written (i : Instr) : Written.instr? { op := i.op, lanes := i.lanes } = some i := by
  cases i <;> rfl

end Sys2Proof.Laws
end

