-- ==== Sys2Proof/Tests/Slice0.lean ====
section
/-! SUPPORT. The model's own tests. Every expected value is taken from spec/95_test_vectors.md or worked out by hand from a
rule of spec/; each test names its source. Then, for every statement with hypotheses, a witness that they can be met. -/

namespace Sys2Proof.Tests

open Sys2Proof.Machine

/-! ## Helpers: small states and one field of an outcome -/

/-- The state after a step that goes on. -/
def next? (o : Result) : Option State :=
  match o with
  | .next s => some s
  | .fault _ => none
  | .refused _ => none

/-- The last ENC response after a step that goes on. -/
def encReply? (o : Result) : Option EncResponse := (next? o).bind (·.encOut.getLast?)

/-- The last DEC response after a step that goes on. -/
def decReply? (o : Result) : Option DecResponse := (next? o).bind (·.decOut.getLast?)

/-- A decode message is open: 3 bytes produced, failed or not. -/
def decMid (err : Bool) : State := { State.reset with decOlen := 3, decOpen := true, decErr := err }

/-- An encode message is open, with this count. -/
def encMid (n : Nat) : State := { State.reset with encOlen := n }

/-- Both ports are out of service. -/
def faulted : State := { State.reset with encFault := true, decFault := true }

/-- The host presents one ENC and one DEC beat in the next cycle. -/
def bothNext : State :=
  { State.reset with input := [{ rst := false, enc := some 0x3666F6F, dec := some 0x45A6D3976 }] }

/-- The host resets in the next cycle and presents two beats in it. -/
def resetNext : State :=
  { faulted with input := [{ rst := true, enc := some 0x3666F6F, dec := some 0x45A6D3976 }] }

/-! ## Well-formedness: each check refuses an ill-formed term (R48, R30, R76) -/

theorem test_wf_right_lanes : Written.wellFormed { op := .encT2, lanes := [0x66, 0x6F] } = true := by decide
theorem test_wf_too_few_lanes : Written.wellFormed { op := .encT2, lanes := [0x66] } = false := by decide
theorem test_wf_too_many_lanes : Written.wellFormed { op := .decE0, lanes := [0x5A] } = false := by decide
theorem test_wf_too_few_not_assembled : assemble { op := .decL4, lanes := [0x5A, 0x67, 0x2E] } = none := by decide
theorem test_framed_ok : wellFramed .enc [.encG3 0x66 0x6F 0x6F, .encT1 0x62] = true := by decide
theorem test_framed_no_beat : wellFramed .enc [] = false := by decide
theorem test_framed_no_end : wellFramed .enc [.encG3 0x66 0x6F 0x6F] = false := by decide
theorem test_framed_end_in_the_middle : wellFramed .enc [.encT1 0x66, .encE0] = false := by decide
theorem test_framed_wrong_port : wellFramed .dec [.encE0] = false := by decide
theorem test_framed_wrong_port_inside : wellFramed .dec [.encG3 0 0 0, .decL1 0x5A] = false := by decide
theorem test_framed_empty_close : wellFramed .dec [.decG4 0x5A 0x6D 0x39 0x76, .decE0] = false := by decide

/-! ## Decoding: one word per operation, written out from R39, R40, R44 and R45 as `last`, `cnt`, lanes -/

theorem test_decode_encG3 : decode (.enc (0b0_11_01100110_01101111_01101111#27)) = .ok (.encG3 0x66 0x6F 0x6F) := rfl
theorem test_decode_encG3L : decode (.enc (0b1_11_00000011_11011001_01111110#27)) = .ok (.encG3L 0x03 0xD9 0x7E) := rfl
theorem test_decode_encT2 : decode (.enc (0b1_10_01100110_01101111_10101010#27)) = .ok (.encT2 0x66 0x6F) := rfl
theorem test_decode_encT1 : decode (.enc (0b1_01_01100110_11011110_10101101#27)) = .ok (.encT1 0x66) := rfl
theorem test_decode_encE0 : decode (.enc (0b1_00_11011110_10101101_10111110#27)) = .ok .encE0 := rfl
theorem test_decode_decG4 : decode (.dec (0b0_100_01011010_01101101_00111001_01110110#36)) =
    .ok (.decG4 0x5A 0x6D 0x39 0x76) := rfl
theorem test_decode_decL4 : decode (.dec (0b1_100_01011010_01100111_00101110_00101110#36)) =
    .ok (.decL4 0x5A 0x67 0x2E 0x2E) := rfl
theorem test_decode_decL3 : decode (.dec (0b1_011_01011010_01101101_00111000_11111111#36)) =
    .ok (.decL3 0x5A 0x6D 0x38) := rfl
theorem test_decode_decL2 : decode (.dec (0b1_010_01011010_01100111_00100000_00111101#36)) =
    .ok (.decL2 0x5A 0x67) := rfl
theorem test_decode_decL1 : decode (.dec (0b1_001_01011010_00000000_00000000_00000000#36)) = .ok (.decL1 0x5A) := rfl
theorem test_decode_decE0 : decode (.dec (0b1_000_00000000_00000000_00000000_00000000#36)) = .ok .decE0 := rfl

/-- R46: every illegal selection of the ENC port. -/
theorem test_decode_enc_illegal :
    [0x0666F00#27, 0x1666F00#27, 0x2666F00#27].map decodeEnc = List.replicate 3 (.error .encPartialNotLast) := rfl

/-- R46: `last` = 0 with 0 to 3 characters. -/
theorem test_decode_dec_partial : [0x05A670000#36, 0x15A670000#36, 0x25A670000#36, 0x35A670000#36].map decodeDec =
    List.replicate 4 (.error .decPartialNotLast) := rfl

/-- R46, R97: `cnt` above 4, with either `last`. -/
theorem test_decode_dec_range :
    [0x55A670000#36, 0x65A670000#36, 0x75A670000#36, 0xD5A670000#36, 0xE5A670000#36, 0xF5A670000#36].map decodeDec =
    List.replicate 6 (.error .decCntRange) := rfl

/-- R48's two worked encodings. -/
theorem test_assemble_t1 : assemble { op := .encT1, lanes := [0x66] } = some (.enc 0x5660000) := by decide
theorem test_assemble_l4 :
    assemble { op := .decL4, lanes := [0x5A, 0x67, 0x2E, 0x2E] } = some (.dec 0xC5A672E2E) := by decide

/-- The table gives an ENC row 27 bits (whole bytes: 32) and a DEC row 36 bits (40); a word of more wires is no beat. -/
theorem test_table_word_enc : decodeTableWord 32 0x3666F6F = some (.encG3 0x66 0x6F 0x6F) := by decide
theorem test_table_word_dec : decodeTableWord 40 0x45A6D3976 = some (.decG4 0x5A 0x6D 0x39 0x76) := by decide
theorem test_table_word_illegal : decodeTableWord 32 0x2666F00 = none ∧ decodeTableWord 32 0x8000000 = none := by decide

/-! ## The operations, one step each from `S0` (spec/95_test_vectors.md sections 2 and 3) -/

theorem test_encG3 : encReply? (step (State.reset.withFetchWord 32 0x3666F6F)) =
    some { q := 0x5A6D3976, qcnt := 4, done := false, total := 4, fault := false } := by decide
theorem test_encG3_wraps : encReply? (exec (.encG3 0x66 0x6F 0x6F) (encMid 0xFFFFFFFC)) =
    some { q := 0x5A6D3976, qcnt := 4, done := false, total := 0, fault := false } := by decide
theorem test_encG3L : encReply? (exec (.encG3L 0x03 0xD9 0x7E) State.reset) =
    some { q := 0x41396C2D, qcnt := 4, done := true, total := 4, fault := false } := by decide
theorem test_encT2 : encReply? (exec (.encT2 0xFB 0xFF) State.reset) =
    some { q := 0x2D5F382E, qcnt := 4, done := true, total := 4, fault := false } := by decide
theorem test_encT1 : encReply? (exec (.encT1 0xFF) State.reset) =
    some { q := 0x5F772E2E, qcnt := 4, done := true, total := 4, fault := false } := by decide
theorem test_encT1_ignored_lanes : encReply? (step (State.reset.withFetchWord 32 0x566DEAD)) =
    some { q := 0x5A672E2E, qcnt := 4, done := true, total := 4, fault := false } := by decide
theorem test_encE0_closes : encReply? (exec .encE0 (encMid 8)) =
    some { q := 0, qcnt := 0, done := true, total := 8, fault := false } := by decide

theorem test_decG4 : decReply? (step (State.reset.withFetchWord 40 0x45A6D3976)) =
    some { q := 0x666F6F, qcnt := 3, done := false, fail := false, total := 3, fault := false } := by decide
theorem test_decG4_padding_fails : (next? (exec (.decG4 0x5A 0x6D 0x38 0x2E) State.reset)).map
    (fun t => (t.decOlen, t.decErr, t.decOpen)) = some (0, true, true) := by decide
theorem test_decL4_one_pad : decReply? (exec (.decL4 0x5A 0x6D 0x39 0x2E) State.reset) =
    some { q := 0x666F00, qcnt := 2, done := true, fail := false, total := 2, fault := false } := by decide
theorem test_decL4_two_pads : decReply? (exec (.decL4 0x5A 0x67 0x2E 0x2E) (decMid false)) =
    some { q := 0x660000, qcnt := 1, done := true, fail := false, total := 4, fault := false } := by decide
theorem test_decL4_pad_then_data : decReply? (exec (.decL4 0x5A 0x67 0x2E 0x41) State.reset) =
    some { q := 0, qcnt := 0, done := true, fail := true, total := 0, fault := false } := by decide
theorem test_decL3 : decReply? (exec (.decL3 0x5A 0x6D 0x38) State.reset) =
    some { q := 0, qcnt := 0, done := true, fail := true, total := 0, fault := false } := by decide
theorem test_decL2_clears : (next? (exec (.decL2 0x5A 0x67) (decMid true))).map
    (fun t => (t.decOlen, t.decErr, t.decOpen)) = some (0, false, false) := by decide
theorem test_decL1_pad_is_bad_length : (decGroup true 1#3 0x2E 0 0 0).cause = .badLength := by decide
theorem test_decE0_empty : decReply? (exec .decE0 State.reset) =
    some { q := 0, qcnt := 0, done := true, fail := false, total := 0, fault := false } := by decide
theorem test_decE0_open_faults : (next? (exec .decE0 (decMid false))).map
    (fun t => (t.decOlen, t.decOpen, t.decFault)) = some (3, true, true) := by decide

/-- Section 3: good data after a failure gives no byte and does not count. -/
theorem test_failed_stays_failed : decReply? (exec (.decG4 0x5A 0x6D 0x39 0x76) (decMid true)) =
    some { q := 0, qcnt := 0, done := false, fail := true, total := 3, fault := false } := by decide

/-- Section 2: an illegal ENC beat, from `ENC_OLEN` = 4. -/
theorem test_illegal_enc : (next? (step ((encMid 4).withFetchWord 32 0x2666F00))).map
    (fun t => (t.encOlen, t.encFault, encReady false t)) = some (4, true, false) := by decide

/-- Section 3: an illegal DEC beat, from a message that is open. -/
theorem test_illegal_dec : (next? (step ((decMid false).withFetchWord 40 0x55A670000))).map
    (fun t => (t.decOlen, t.decOpen, t.decFault, decReady false t)) = some (3, true, true, false) := by decide

/-- R107: reset wins over the two beats of its cycle. -/
theorem test_reset_wins : (next? (step resetNext)).map (fun t => (t.encFault, t.decFault, t.encOut, t.decOut)) =
    some (false, false, [], []) := by decide

/-- Section 6: entries of the two ROMs at the ends of their ranges. -/
theorem test_fwd : [0#6, 25, 26, 51, 52, 61, 62, 63].map fwd = [0x41, 0x5A, 0x61, 0x7A, 0x30, 0x39, 0x2D, 0x5F] := by
  decide
theorem test_rev_valid : [0x41#8, 0x5A, 0x61, 0x7A, 0x30, 0x39, 0x2D, 0x5F].map rev =
    [0x00, 0x19, 0x1A, 0x33, 0x34, 0x3D, 0x3E, 0x3F] := by decide
theorem test_rev_invalid : [0x2E#8, 0x2B, 0x2F, 0x3D, 0x20, 0x00, 0x40, 0x5B, 0x60, 0x7B, 0x80, 0xFF].map rev =
    List.replicate 12 0x40 := by decide

/-- Section 6: `PV` masks the padding flag of a lane that is not valid. -/
theorem test_pv_masks : pv true 3#3 false false false true = { npad := 0, padErr := false, lenErr := true } := by decide

/-- Sections 5 and 6: a text and its failure, and the size functions where the 32-bit counter ends. -/
theorem test_decode_text : decodeText [0x5A, 0x68, 0x2E, 0x2E] = some [0x66] := by decide
theorem test_decode_text_bad : decodeText [0x5A, 0x6D, 0x39, 0x76, 0x59, 0x67] = none := by decide
theorem test_sizes : (encodedLength 3221225469, encodedCapacity 7, decodedCapacity 8) = (4294967292, 13, 8) := by decide

/-! ## Witnesses: the hypotheses of each statement can be met. Where a statement has several clauses, each clause has its
own, at an end of its range where it has one. -/

/-- `EncG3ContinuesTheMessage`: the largest word of the row, and a port in service at the largest count. -/
theorem witness_EncG3ContinuesTheMessage :
    0x3FFFFFF#27 &&& 0x7000000#27 = 0x3000000#27 ∧ (encMid 0xFFFFFFFC).encFault = false := by decide

theorem witness_EncG3LEndsTheMessage :
    0x7666F6F#27 &&& 0x7000000#27 = 0x7000000#27 ∧ (encMid 4).encFault = false := by decide

theorem witness_EncT2PadsOnce :
    0x6666FAA#27 &&& 0x7000000#27 = 0x6000000#27 ∧ (encMid 4).encFault = false := by decide

theorem witness_EncT1PadsTwice :
    0x566DEAD#27 &&& 0x7000000#27 = 0x5000000#27 ∧ (encMid 4).encFault = false := by decide

theorem witness_EncE0ClosesWithoutCharacters :
    0x4DEADBE#27 &&& 0x7000000#27 = 0x4000000#27 ∧
    (encMid 0xFFFFFFFC).encFault = false ∧ (encMid 0xFFFFFFFC).encOlen < 2 ^ (encMid 0xFFFFFFFC).cfg.lenW := by decide

/-- `IllegalEncBeatFaults`: one word for each of the three selections. -/
theorem witness_IllegalEncBeatFaults : (encMid 4).encFault = false ∧
    (0x0666F00#27).extractLsb' 24 3 = 0b000#3 ∧ (0x1666F00#27).extractLsb' 24 3 = 0b001#3 ∧
    (0x2666F00#27).extractLsb' 24 3 = 0b010#3 := by decide

/-- `DecG4ContinuesTheMessage`: both branches, and a counter at its largest value. -/
theorem witness_DecG4ContinuesTheMessage : 0x45A6D3976#36 &&& 0xF00000000#36 = 0x400000000#36 ∧
    (decMid false).decFault = false ∧ (decMid false).decOlen < 2 ^ (decMid false).cfg.lenW ∧
    { State.reset with decOlen := 0xFFFFFFFF }.decOlen < 2 ^ State.reset.cfg.lenW ∧
    (isDataChar 0x5A ∧ isDataChar 0x6D ∧ isDataChar 0x39 ∧ isDataChar 0x76 ∧ (decMid false).decErr = false) ∧
    ¬ (isDataChar 0x5A ∧ isDataChar 0x6D ∧ isDataChar 0x38 ∧ isDataChar 0x2E ∧ (decMid false).decErr = false) := by
  decide

/-- `DecL4EndsTheMessage`: the three good patterns and a bad one. -/
theorem witness_DecL4EndsTheMessage : 0xC5A672E2E#36 &&& 0xF00000000#36 = 0xC00000000#36 ∧
    (decMid false).decFault = false ∧ (decMid false).decOlen < 2 ^ (decMid false).cfg.lenW ∧
    (decMid false).decErr = false ∧ isDataChar 0x5A ∧ isDataChar 0x6D ∧ isDataChar 0x39 ∧ isDataChar 0x76 ∧
    isDataChar 0x2E = false := by decide

theorem witness_DecL3AlwaysFails : 0xB5A6D3800#36 &&& 0xF00000000#36 = 0xB00000000#36 ∧
    (decMid true).decFault = false ∧ (decMid true).decOlen < 2 ^ (decMid true).cfg.lenW := by decide

theorem witness_DecL2AlwaysFails : 0xA5A67203D#36 &&& 0xF00000000#36 = 0xA00000000#36 ∧
    (decMid true).decFault = false ∧ (decMid true).decOlen < 2 ^ (decMid true).cfg.lenW := by decide

theorem witness_DecL1AlwaysFails : 0x95A000000#36 &&& 0xF00000000#36 = 0x900000000#36 ∧
    (decMid true).decFault = false ∧ (decMid true).decOlen < 2 ^ (decMid true).cfg.lenW := by decide

/-- `DecE0IsTheEmptyMessage`: no message open, and one open. -/
theorem witness_DecE0IsTheEmptyMessage : 0x800000000#36 &&& 0xF00000000#36 = 0x800000000#36 ∧
    (State.reset.decFault = false ∧ State.reset.decOpen = false ∧ State.reset.ClosedIsClean) ∧
    ((decMid false).decFault = false ∧ (decMid false).decOpen = true) := by decide

/-- `IllegalDecBeatFaults`: `last` = 0 with 0 and with 3 characters, `cnt` = 5 and 7, and `DEC.E0` on an open message. -/
theorem witness_IllegalDecBeatFaults : (decMid false).decFault = false ∧
    ((0x05A670000#36).getLsbD 35 = false ∧ ((0x05A670000#36).extractLsb' 32 3).toNat = 0) ∧
    ((0x35A670000#36).getLsbD 35 = false ∧ ((0x35A670000#36).extractLsb' 32 3).toNat = 3) ∧
    ((0x55A670000#36).getLsbD 35 = false ∧ ((0x55A670000#36).extractLsb' 32 3).toNat = 5) ∧
    ((0xF5A670000#36).getLsbD 35 = true ∧ ((0xF5A670000#36).extractLsb' 32 3).toNat = 7) ∧
    ((0x85A670000#36).getLsbD 35 = true ∧ ((0x85A670000#36).extractLsb' 32 3).toNat = 0 ∧
      (decMid false).decOpen = true) := by decide

/-- `DecGroupNamesTheFirstFailure`: an invalid character, a short beat without one, and padding that is malformed in a beat
that is not last and in a full last beat. -/
theorem witness_DecGroupNamesTheFirstFailure : (4#3 ≤ 4#3 ∧ (0#3 : BitVec 3) ≤ 4#3) ∧
    (isDataChar 0x3D = false ∧ (0x3D : Byte) ≠ 0x2E) ∧
    ((decGroup true 3#3 0x5A 0x6D 0x2E 0).cause = .badLength) ∧
    ((decGroup false 4#3 0x5A 0x6D 0x38 0x2E).cause = .malformedPadding) ∧
    ((decGroup true 4#3 0x5A 0x2E 0x67 0x2E).cause = .malformedPadding) := by decide

/-- `PaddingValidatorTable`: a full last beat, and a beat that is not one. -/
theorem witness_PaddingValidatorTable : ((4#3 : BitVec 3) ≤ 4#3 ∧ true = true ∧ (4#3 : BitVec 3) = 4#3) ∧
    ((3#3 : BitVec 3) ≤ 4#3 ∧ ¬ (true = true ∧ (3#3 : BitVec 3) = 4#3)) := by decide

/-- `DiscardedBitsAreNotChecked`: `8` and `9` differ only in the two bits that one padding character discards, `g` and `h`
only in the four that two discard. -/
theorem witness_DiscardedBitsAreNotChecked :
    (isDataChar 0x38 ∧ isDataChar 0x39 ∧ (RevEntry.val (rev 0x38)).extractLsb' 2 4 =
      (RevEntry.val (rev 0x39)).extractLsb' 2 4 ∧ rev 0x38 ≠ rev 0x39) ∧
    (isDataChar 0x67 ∧ isDataChar 0x68 ∧ (RevEntry.val (rev 0x67)).extractLsb' 4 2 =
      (RevEntry.val (rev 0x68)).extractLsb' 4 2 ∧ rev 0x67 ≠ rev 0x68) := by decide

theorem witness_ReverseRomInvertsForwardRom : RevEntry.inv (rev 0x5F) = false := by decide

theorem witness_EveryCodeIsOneOfThree : fwd 63#6 = fwd 63#6 := rfl

theorem witness_DecodeGivesBackTheEncodedInstruction : (Instr.decL4 0x5A 0x67 0x2E 0x2E).wellFormed = true := by decide

theorem witness_EncodeGivesBackTheDecodedWord : decode (.enc 0x566DEAD#27) = .ok (.encT1 0x66) := rfl

/-- `IgnoredLanesNeverMatter`: two words of one operation that differ in every ignored lane. -/
theorem witness_IgnoredLanesNeverMatter :
    ((0x566DEAD#27).extractLsb' 24 3 = (0x5660000#27).extractLsb' 24 3 ∧
      ((0x566DEAD#27).extractLsb' 24 2).toNat = 1 ∧
      (0x566DEAD#27).extractLsb' 16 8 = (0x5660000#27).extractLsb' 16 8) ∧
    ((0xA5A67203D#36).extractLsb' 32 4 = (0xA5A670000#36).extractLsb' 32 4 ∧
      ((0xA5A67203D#36).extractLsb' 32 3).toNat = 2 ∧
      (0xA5A67203D#36).extractLsb' 24 8 = (0xA5A670000#36).extractLsb' 24 8 ∧
      (0xA5A67203D#36).extractLsb' 16 8 = (0xA5A670000#36).extractLsb' 16 8) := by decide

/-- `WrittenBeatAssembles`: a beat with the right lanes, and one with a lane too many. -/
theorem witness_WrittenBeatAssembles : [0x66#8].length = Op.encT1.cnt ∧ [0x66#8, 0x6F].length ≠ Op.encT1.cnt := by decide

/-- `ResetWinsOverEveryBeat`: a cycle with `rst` = 1 and two beats in it, on two faulted ports; the step clears both. -/
theorem witness_ResetWinsOverEveryBeat :
    (∃ c rest, resetNext.input = c :: rest ∧ c.rst = true) ∧
    ∃ t, step resetNext = .next t ∧ resetNext.encFault = true ∧ t.encFault = false ∧
      resetNext.decFault = true ∧ t.decFault = false :=
  ⟨⟨_, _, rfl, rfl⟩, _, rfl, rfl, rfl, rfl, rfl⟩

theorem witness_OnlyResetReturnsAFaultedPort : ∃ t,
    step { faulted with input := [Cycle.ofBeat (.enc 0x3666F6F)] } = .next t ∧ faulted.encFault = true ∧
      faulted.decFault = true ∧ (Cycle.ofBeat (.enc 0x3666F6F)).rst = false :=
  ⟨_, rfl, rfl, rfl, rfl⟩

theorem witness_UnacceptedBeatHasNoEffect :
    portFaulted (Instr.encT1 0x66).port faulted = true ∧ portFaulted (Instr.decL1 0x5A).port faulted = true := by decide

/-- `FlagsMoveOnlyAsListed`: a cycle with `rst` = 1, and one with `rst` = 0 and a DEC beat to a port in service. -/
theorem witness_FlagsMoveOnlyAsListed :
    (∃ c rest t, resetNext.input = c :: rest ∧ step resetNext = .next t ∧ c.rst = true) ∧
    ∃ c rest t w, bothNext.input = c :: rest ∧ step bothNext = .next t ∧ c.rst = false ∧ c.dec = some w ∧
      bothNext.decFault = false ∧ t.decFault = false ∧ w.getLsbD 35 = false :=
  ⟨⟨_, _, _, rfl, rfl, rfl⟩, _, _, _, _, rfl, rfl, rfl, rfl, rfl, rfl, rfl⟩

/-- `FlagsMoveOnlyAsListed`: a beat on a faulted port, a cycle without a DEC beat, an illegal beat, and a beat that ends the
message. -/
theorem witness_FlagsMoveOnlyAsListed_clauses :
    (∃ t, step (faulted.withFetchWord 40 0x45A6D3976) = .next t ∧ faulted.decFault = true) ∧
    (∃ t, step (State.reset.withFetchWord 32 0x2666F00) = .next t ∧ t.encFault = true) ∧
    (∃ t, step (State.reset.withFetchWord 40 0x35A670000) = .next t ∧ t.decFault = true) ∧
    ∃ t, step ((decMid true).withFetchWord 40 0x95A000000) = .next t ∧ t.decFault = false ∧
      (0x95A000000#36).getLsbD 35 = true :=
  ⟨⟨_, rfl, rfl⟩, ⟨_, rfl, rfl⟩, ⟨_, rfl, rfl⟩, _, rfl, rfl, rfl⟩

/-- `FailedMessageStaysFailed`: a beat that continues the failed message, and one that ends it. -/
theorem witness_FailedMessageStaysFailed :
    (Instr.decG4 0x5A 0x6D 0x39 0x76).port = .dec ∧ (Instr.decG4 0x5A 0x6D 0x39 0x76) ≠ .decE0 ∧
    (Instr.decL1 0x5A).port = .dec ∧ (Instr.decL1 0x5A) ≠ .decE0 ∧
    (decMid true).decFault = false ∧ (decMid true).decErr = true ∧
    (decMid true).decOlen < 2 ^ (decMid true).cfg.lenW := by decide

theorem witness_LegalEncBeatsNeverFail : Instr.encE0.port = .enc ∧ (encMid 4).encFault = false := by decide

/-- `EncBeatFrame`: an operation that ends a message, on a port in service. -/
theorem witness_EncBeatFrame : (Instr.encT1 0x66).port = .enc ∧ (Instr.encT1 0x66).isLast = true ∧
    ∃ t, exec (.encT1 0x66) (encMid 4) = .next t ∧ (encMid 4).encFault = false :=
  ⟨rfl, rfl, _, rfl, rfl⟩

/-- `DecBeatFrame`: an operation that raises the Fault, and one that ends a message without it. -/
theorem witness_DecBeatFrame : Instr.decE0.port = .dec ∧
    (∃ t, exec .decE0 (decMid false) = .next t ∧ t.decFault ≠ (decMid false).decFault) ∧
    ∃ t, exec (.decL1 0x5A) (decMid false) = .next t ∧ (Instr.decL1 0x5A).isLast = true ∧ t.decFault = false :=
  ⟨rfl, ⟨_, rfl, by decide⟩, _, rfl, rfl, rfl⟩

theorem witness_BothPortsInOneCycle :
    bothNext.input = { rst := false, enc := some 0x3666F6F, dec := some 0x45A6D3976 } :: [] := rfl

/-- `PortsDoNotInterfere`: two states that agree on one port and differ on the other, in each direction. -/
theorem witness_PortsDoNotInterfere :
    (∃ c c' : Cycle, ∃ t t' : State, c.rst = c'.rst ∧ c.dec = c'.dec ∧ c.enc ≠ c'.enc ∧
      step { encMid 4 with input := [c] } = .next t ∧ step { encMid 8 with input := [c'] } = .next t' ∧
      SameDecPort (encMid 4) (encMid 8)) ∧
    ∃ c c' : Cycle, ∃ t t' : State, c.rst = c'.rst ∧ c.enc = c'.enc ∧ c.dec ≠ c'.dec ∧
      step { decMid true with input := [c] } = .next t ∧ step { decMid false with input := [c'] } = .next t' ∧
      SameEncPort (decMid true) (decMid false) :=
  ⟨⟨Cycle.ofBeat (.enc 0x3666F6F), Cycle.idle, _, _, rfl, rfl, by decide, rfl, rfl, by decide⟩,
    Cycle.ofBeat (.dec 0x45A6D3976), Cycle.idle, _, _, rfl, rfl, by decide, rfl, rfl, by decide⟩

theorem witness_StepRunsTheDecodedInstruction :
    (State.reset.withFetchWord 32 0x5660000).input = Cycle.ofBeat (.enc 0x5660000) :: [] ∧
    decode (.enc 0x5660000) = .ok (.encT1 0x66) ∧ (Instr.encT1 0x66).wellFormed = true :=
  ⟨rfl, rfl, rfl⟩

theorem witness_StepTakesTheFaultOfAnIllegalBeat :
    (State.reset.withFetchWord 40 0x55A670000).input = Cycle.ofBeat (.dec 0x55A670000) :: [] ∧
    decode (.dec 0x55A670000) = .error .decCntRange ∧ portFaulted FaultCode.decCntRange.port State.reset = false :=
  ⟨rfl, rfl, rfl⟩

theorem witness_OutputSignalsAgreeWithTheStep :
    ∃ c rest t, bothNext.input = c :: rest ∧ step bothNext = .next t ∧ c.rst = false :=
  ⟨_, _, _, rfl, rfl, rfl⟩

theorem witness_StepKeepsParametersAndPastResponses : ∃ t, step bothNext = .next t := ⟨_, rfl⟩

theorem witness_StepKeepsStateWellFormed : State.Wf bothNext ∧ ∃ t, step bothNext = .next t :=
  ⟨by decide, _, rfl⟩

/-- `DecCounterCountsGroupsOfThree`, `DecMessageDeliversTheDecoding`: a clean DEC port; a text that decodes and one that
does not. -/
theorem witness_DecCounterCountsGroupsOfThree : DecClean (encMid 4) := by decide

theorem witness_DecOpenTracksTheOpenMessage : DecClean State.reset ∧
    (∀ i ∈ [Instr.decG4 0x5A 0x6D 0x39 0x76], i.port = .dec) ∧
    ∃ t, runBeats [Instr.decG4 0x5A 0x6D 0x39 0x76] State.reset = .next t ∧ t.decFault = false :=
  ⟨by decide, by decide, _, rfl, rfl⟩

theorem witness_WellFramedMessageEndsClean :
    (wellFramed .enc [.encG3 0x66 0x6F 0x6F, .encT1 0x62] = true ∧ State.reset.encFault = false) ∧
    (wellFramed .dec [.decG4 0x5A 0x6D 0x39 0x76, .decL4 0x59 0x67 0x2E 0x2E] = true ∧ DecClean State.reset) := by decide

/-- `EncMessageDeliversTheEncoding`: the two framings of a message of three bytes. -/
theorem witness_EncMessageDeliversTheEncoding : EncClean State.reset ∧
    ([0x66#8, 0x6F, 0x6F] ≠ [] ∧ [0x66#8, 0x6F, 0x6F].length % 3 = 0) ∧
    encMsgClosed [0x66, 0x6F, 0x6F] ≠ encMsg [0x66, 0x6F, 0x6F] := by decide

theorem witness_DecMessageDeliversTheDecoding : DecClean State.reset ∧
    decodeText [0x5A, 0x67, 0x2E, 0x2E] = some [0x66] ∧ decodeText [0x5A] = none := by decide

theorem witness_BlockRoundTrip : EncClean State.reset ∧ DecClean State.reset := by decide

/-- `EncodedTextHasTheEncodedLength`: the smallest `LEN_W`, with n at the bound and one above it. -/
theorem witness_EncodedTextHasTheEncodedLength :
    (EncClean State.reset ∧ ∃ t, runBeats (encMsg [0x66]) State.reset = .next t) ∧
    3 ≤ 3 ∧ encodedLength 3 % 2 ^ 3 = encodedLength 3 ∧ encodedLength 4 % 2 ^ 3 ≠ encodedLength 4 :=
  ⟨⟨by decide, _, rfl⟩, by decide, by decide, by decide⟩

theorem witness_EncodingStaysInTheAlphabet : (Instr.encT1 0x66).port = .enc ∧
    ∃ t r, exec (.encT1 0x66) State.reset = .next t ∧ t.encOut = State.reset.encOut ++ [r] :=
  ⟨rfl, _, _, rfl, rfl⟩

/-- `BadTextIsRejected`: a space; a padding character before a data character; three trailing ones; five characters. -/
theorem witness_BadTextIsRejected :
    (∃ c ∈ [0x5A#8, 0x67, 0x2E, 0x20], ¬ inAlphabet c) ∧ padBeforeData [0x5A, 0x67, 0x2E, 0x41] = true ∧
    3 ≤ trailingPads [0x5A, 0x2E, 0x2E, 0x2E] ∧ [0x5A#8, 0x6D, 0x39, 0x76, 0x59].length % 4 ≠ 0 := by decide

theorem witness_DecodedBytesAreBounded :
    ([0x5A#8, 0x67, 0x2E, 0x2E] ≠ [] ∧ decodeText [0x5A, 0x67, 0x2E, 0x2E] = some [0x66]) ∧
    DecClean State.reset ∧ ∃ t, runBeats (decMsg [0x5A]) State.reset = .next t :=
  ⟨by decide, by decide, _, rfl⟩

/-- `SizeFunctionsAreExact`: the bound of R90 for 32 bits, and the smallest width. -/
theorem witness_SizeFunctionsAreExact : (3 ≤ 32 ∧ 3221225469 ≤ 3 * (2 ^ (32 - 2) - 1)) ∧
    (3 ≤ 3 ∧ 3 ≤ 3 * (2 ^ (3 - 2) - 1)) ∧ 4 = encodedLength 3 ∧ 4 % 4 = 0 ∧ 4 * 3 ≤ 3 * 4 := by decide

end Sys2Proof.Tests
end

/-! PROOFS, family 00_scope.md. What one cycle leaves of the parameters, the host's cycles and the responses (R5, R18,
R34): each port's part of it touches neither the other port nor the cycles to come, and answers at most once. -/

namespace Sys2Proof.Proofs

open Sys2Proof.Machine Sys2Proof.Laws

/-- The frame of an ENC beat, legal or not, accepted or not (R18, R54, R104). -/
theorem acceptEnc_frame (w : EncWord) (s : State) :
    ∃ t, acceptEnc w s = .next t ∧ t.cfg = s.cfg ∧ t.input = s.input ∧ SameDecPort s t ∧
      ∃ e, t.encOut = s.encOut ++ e ∧ e.length ≤ 1 := by
  obtain ⟨-, h⟩ | ⟨-, h⟩ | ⟨-, _, _, _, _, _, -, h⟩ := acceptEnc_cases w s
  case inl => exact ⟨s, h, rfl, rfl, ⟨rfl, rfl, rfl, rfl, rfl⟩, [], by simp⟩
  case inr.inl => exact ⟨_, h, rfl, rfl, ⟨rfl, rfl, rfl, rfl, rfl⟩, [_], rfl, le_rfl⟩
  case inr.inr => exact ⟨_, h, rfl, rfl, ⟨rfl, rfl, rfl, rfl, rfl⟩, [_], rfl, le_rfl⟩

/-- The frame of a DEC beat, legal or not, accepted or not (R18, R70, R104). -/
theorem acceptDec_frame (w : DecWord) (s : State) :
    ∃ t, acceptDec w s = .next t ∧ t.cfg = s.cfg ∧ t.input = s.input ∧ SameEncPort s t ∧
      ∃ d, t.decOut = s.decOut ++ d ∧ d.length ≤ 1 := by
  obtain ⟨-, h⟩ | ⟨-, code, hp, h⟩ | ⟨-, _, _, _, _, _, _, -, h⟩ := acceptDec_cases w s
  case inl => exact ⟨s, h, rfl, rfl, ⟨rfl, rfl, rfl⟩, [], by simp⟩
  case inr.inl =>
    rw [raiseFault_dec code s hp] at h
    exact ⟨_, h, rfl, rfl, ⟨rfl, rfl, rfl⟩, [_], rfl, le_rfl⟩
  case inr.inr => exact ⟨_, h, rfl, rfl, ⟨rfl, rfl, rfl⟩, [_], rfl, le_rfl⟩

/-- The frame of the ENC port's part of a cycle, with a beat or without. -/
theorem encCycle_frame (b : Option EncWord) (s : State) :
    ∃ t, encCycle b s = .next t ∧ t.cfg = s.cfg ∧ t.input = s.input ∧ SameDecPort s t ∧
      ∃ e, t.encOut = s.encOut ++ e ∧ e.length ≤ 1 := by
  cases b with
  | none => exact ⟨s, rfl, rfl, rfl, ⟨rfl, rfl, rfl, rfl, rfl⟩, [], by simp⟩
  | some w => exact acceptEnc_frame w s

/-- The frame of the DEC port's part of a cycle, with a beat or without. -/
theorem decCycle_frame (b : Option DecWord) (s : State) :
    ∃ t, decCycle b s = .next t ∧ t.cfg = s.cfg ∧ t.input = s.input ∧ SameEncPort s t ∧
      ∃ d, t.decOut = s.decOut ++ d ∧ d.length ≤ 1 := by
  cases b with
  | none => exact ⟨s, rfl, rfl, rfl, ⟨rfl, rfl, rfl⟩, [], by simp⟩
  | some w => exact acceptDec_frame w s

/-- Settles O45: an idle or a reset cycle adds no response; in any other the ENC port's part keeps `decOut` and the DEC
port's part keeps `encOut`, so the two frames add up. -/
theorem stepKeepsParametersAndPastResponses : Obligations.StepKeepsParametersAndPastResponses := by
  intro s t hstep
  obtain ⟨hin, h⟩ | ⟨c, rest, hin, -, h⟩ | ⟨c, rest, hin, -, h⟩ := step_cases s
  case inl | inr.inl =>
    cases h.symm.trans hstep
    exact ⟨rfl, by simp [hin], ⟨[], by simp⟩, [], by simp⟩
  case inr.inr =>
    obtain ⟨u, hu, hucfg, huin, ⟨-, -, -, -, hudec⟩, e, he, hle⟩ := encCycle_frame c.enc { s with input := rest }
    obtain ⟨v, hv, hvcfg, hvin, ⟨-, -, hvenc⟩, d, hd, hld⟩ := decCycle_frame c.dec u
    rw [hu, andThen_next, hv] at h
    cases h.symm.trans hstep
    exact ⟨hvcfg.trans hucfg, by rw [hvin, huin, hin, List.tail_cons], ⟨e, hvenc.trans he, hle⟩,
      d, by rw [hd, hudec], hld⟩

/-- Settles O46: the default width is allowed, every counter is 0, and no response has been given yet. -/
theorem resetStateIsWellFormed : Obligations.ResetStateIsWellFormed := by
  have hcounters : State.reset.CountersFit := ⟨by decide, Nat.two_pow_pos _, Nat.two_pow_pos _⟩
  have hclosed : State.reset.ClosedIsClean := fun _ => ⟨rfl, rfl⟩
  have hresponses : State.reset.ResponsesWf := ⟨nofun, nofun⟩
  exact ⟨⟨hcounters, rfl, hclosed⟩, hresponses⟩

end Sys2Proof.Proofs

/-! PROOFS, family 10_state.md. The invariant of registers and responses (R8, R41, R42, R63, R78): each write keeps it
under a condition on the value written, and the responses that the ports give meet that condition. -/

namespace Sys2Proof.Proofs

open Sys2Proof.Machine Sys2Proof.Laws

/-! ## The writes -/

theorem giveEnc_keeps_wf {s : State} {r : EncResponse} (h : s.Wf) (hr : EncResponse.Wf s.cfg r) :
    (s.giveEnc r).Wf := by
  obtain ⟨hregs, henc, hdec⟩ := h
  exact ⟨hregs, List.forall_mem_append.2 ⟨henc, List.forall_mem_singleton.2 hr⟩, hdec⟩

theorem giveDec_keeps_wf {s : State} {r : DecResponse} (h : s.Wf) (hr : DecResponse.Wf s.cfg r) :
    (s.giveDec r).Wf := by
  obtain ⟨hregs, henc, hdec⟩ := h
  exact ⟨hregs, henc, List.forall_mem_append.2 ⟨hdec, List.forall_mem_singleton.2 hr⟩⟩

theorem setEncOlen_keeps_wf {s : State} {n : Nat} (h : s.Wf) (hlt : n < s.cfg.modulus) (h4 : n % 4 = 0) :
    (s.setEncOlen n).Wf := by
  obtain ⟨⟨⟨hw, -, hdec⟩, -, hclosed⟩, hout⟩ := h
  exact ⟨⟨⟨hw, hlt, hdec⟩, h4, hclosed⟩, hout⟩

theorem setDecMessage_keeps_wf {s : State} {n : Nat} {err isOpen : Bool} (h : s.Wf) (hlt : n < s.cfg.modulus)
    (hclosed : isOpen = false → n = 0 ∧ err = false) : (s.setDecMessage n err isOpen).Wf := by
  obtain ⟨⟨⟨hw, henc, -⟩, h4, -⟩, hout⟩ := h
  exact ⟨⟨⟨hw, henc, hlt⟩, h4, hclosed⟩, hout⟩

theorem resetRegisters_keeps_wf {s : State} (h : s.Wf) : (resetRegisters s).Wf := by
  obtain ⟨⟨⟨hw, -, -⟩, -, -⟩, hout⟩ := h
  exact ⟨⟨⟨hw, Nat.two_pow_pos _, Nat.two_pow_pos _⟩, rfl, fun _ => ⟨rfl, rfl⟩⟩, hout⟩

/-- The fault bits are no part of the invariant, so only the faulting response has to meet it (R94). -/
theorem raiseFault_keeps_wf (code : FaultCode) {s : State} (h : s.Wf) : (raiseFault code s).Wf := by
  cases hp : code.port with
  | enc =>
    rw [raiseFault_enc code s hp]
    exact giveEnc_keeps_wf h ⟨Nat.two_pow_pos _, .inr ⟨rfl, rfl⟩, fun _ => ⟨rfl, rfl, rfl⟩⟩
  | dec =>
    rw [raiseFault_dec code s hp]
    exact giveDec_keeps_wf h ⟨Nat.two_pow_pos _, by decide, nofun, fun _ => ⟨rfl, rfl, rfl, rfl⟩⟩

/-! ## The responses -/

/-- R22, R63: an entry of `FWD` is in the alphabet. -/
theorem fwd_inAlphabet (v : Symbol) : inAlphabet (fwd v) := .inl (by revert v; decide)

/-- R53, R63: a group of characters stays in the alphabet, its padding included. -/
theorem encGroup_inAlphabet (b0 b1 b2 : Byte) (cnt : BitVec 2) :
    ∀ x ∈ lanes32 (encGroup b0 b1 b2 cnt), inAlphabet x := by
  have hpad (p : Prop) [Decidable p] (v : Symbol) : inAlphabet (if p then fwd v else padChar) := by
    split
    · exact fwd_inAlphabet v
    · exact .inr rfl
  simp only [encGroup, lanes32_append, List.forall_mem_cons]
  exact ⟨fwd_inAlphabet _, fwd_inAlphabet _, hpad _ _, hpad _ _, nofun⟩

/-- The response to a legal ENC beat has legal fields (R41, R54). -/
theorem encResponse_wf (last : Bool) (cnt : BitVec 2) (b0 b1 b2 : Byte) (s : State) :
    EncResponse.Wf s.cfg (encResponse last cnt b0 b1 b2 s) := by
  refine ⟨countUp_lt _ _ _, ?_, nofun⟩
  by_cases hcnt : cnt = 0#2
  · exact .inr (by simp [encResponse, hcnt])
  · exact .inl (by simpa [encResponse, hcnt] using encGroup_inAlphabet b0 b1 b2 cnt)

/-- 2^`LEN_W` is a multiple of 4 (R5), so a counter of whole groups stays one. -/
theorem countUp_groups {c : Config} {a n : Nat} (hw : c.Allowed) (ha : a % 4 = 0) (hn : n % 4 = 0) :
    countUp c a n % 4 = 0 := by
  have hmod : 4 ∣ c.modulus := pow_dvd_pow 2 (show 2 ≤ c.lenW by omega)
  rw [countUp, Nat.mod_mod_of_dvd _ hmod]
  omega

/-- An ENC beat counts a whole group or nothing (R54). -/
theorem encResponse_total_groups {s : State} (hw : s.cfg.Allowed) (h4 : s.EncCountsGroups) (last : Bool)
    (cnt : BitVec 2) (b0 b1 b2 : Byte) : (encResponse last cnt b0 b1 b2 s).total % 4 = 0 := by
  refine countUp_groups hw h4 ?_
  split <;> rfl

/-- R68: the lanes from `nb` on are 0. -/
theorem decBytes_lanes_beyond (w : BitVec 24) (nb : BitVec 2) :
    ∀ x ∈ (lanes24 (decBytes w nb)).drop nb.toNat, x = 0x00#8 := by
  rw [decBytes, lanes24_append]
  obtain rfl | rfl | rfl | rfl : nb = 0#2 ∨ nb = 1#2 ∨ nb = 2#2 ∨ nb = 3#2 := by revert nb; decide
  all_goals simp [laneOrZero]

theorem decGroup_lanes_beyond (last : Bool) (cnt : BitVec 3) (c0 c1 c2 c3 : Byte) :
    ∀ x ∈ (lanes24 (decGroup last cnt c0 c1 c2 c3).q).drop (decGroup last cnt c0 c1 c2 c3).nb.toNat, x = 0x00#8 :=
  decBytes_lanes_beyond _ _

/-- The response to a legal DEC beat has legal fields (R42, R70). -/
theorem decResponse_wf (last : Bool) (cnt : BitVec 3) (c0 c1 c2 c3 : Byte) (s : State) :
    DecResponse.Wf s.cfg (decResponse last cnt c0 c1 c2 c3 s) := by
  refine ⟨countUp_lt _ _ _, ?_, ?_, nofun⟩
  · cases hfail : s.decErr || !(decGroup last cnt c0 c1 c2 c3).ok with
    | false => simpa [decResponse, hfail] using decGroup_lanes_beyond last cnt c0 c1 c2 c3
    | true => simp [decResponse, hfail, lanes24]
  · intro hfail
    simp_all [decResponse]

/-! ## The ports and the step -/

theorem encAfter_keeps_wf {s : State} (h : s.Wf) (last : Bool) (cnt : BitVec 2) (b0 b1 b2 : Byte) :
    (encAfter last cnt b0 b1 b2 s).Wf := by
  have ⟨⟨⟨hw, _, _⟩, h4, _⟩, _⟩ := h
  refine giveEnc_keeps_wf (setEncOlen_keeps_wf h ?_ ?_) (encResponse_wf ..)
  · cases last
    · exact countUp_lt ..
    · exact Nat.two_pow_pos _
  · cases last
    · exact encResponse_total_groups hw h4 ..
    · rfl

theorem decAfter_keeps_wf {s : State} (h : s.Wf) (last : Bool) (cnt : BitVec 3) (c0 c1 c2 c3 : Byte) :
    (decAfter last cnt c0 c1 c2 c3 s).Wf := by
  refine giveDec_keeps_wf (setDecMessage_keeps_wf h ?_ ?_) (decResponse_wf ..)
  · cases last
    · exact countUp_lt ..
    · exact Nat.two_pow_pos _
  · cases last
    · nofun
    · exact fun _ => ⟨rfl, rfl⟩

theorem acceptEnc_keeps_wf {w : EncWord} {s t : State} (h : s.Wf) (ht : acceptEnc w s = .next t) : t.Wf := by
  obtain ⟨-, he⟩ | ⟨-, he⟩ | ⟨-, last, cnt, b0, b1, b2, -, he⟩ := acceptEnc_cases w s <;> cases he.symm.trans ht
  · exact h
  · exact raiseFault_keeps_wf _ h
  · exact encAfter_keeps_wf h ..

theorem acceptDec_keeps_wf {w : DecWord} {s t : State} (h : s.Wf) (ht : acceptDec w s = .next t) : t.Wf := by
  obtain ⟨-, he⟩ | ⟨-, code, -, he⟩ | ⟨-, last, cnt, c0, c1, c2, c3, -, he⟩ := acceptDec_cases w s <;>
    cases he.symm.trans ht
  · exact h
  · exact raiseFault_keeps_wf _ h
  · exact decAfter_keeps_wf h ..

theorem encCycle_keeps_wf {b : Option EncWord} {s t : State} (h : s.Wf) (ht : encCycle b s = .next t) : t.Wf := by
  cases b with
  | none => cases ht; exact h
  | some w => exact acceptEnc_keeps_wf h ht

theorem decCycle_keeps_wf {b : Option DecWord} {s t : State} (h : s.Wf) (ht : decCycle b s = .next t) : t.Wf := by
  cases b with
  | none => cases ht; exact h
  | some w => exact acceptDec_keeps_wf h ht

/-- Settles O47: an idle cycle changes nothing, reset writes zeros, and in any other cycle the ENC port's part keeps the
invariant and then the DEC port's part does. -/
theorem stepKeepsStateWellFormed : Obligations.StepKeepsStateWellFormed := by
  intro s t hs hstep
  have hrest (rest : List Cycle) : State.Wf { s with input := rest } := hs
  obtain ⟨-, h⟩ | ⟨c, rest, -, -, h⟩ | ⟨c, rest, -, -, h⟩ := step_cases s
  case inl =>
    cases h.symm.trans hstep
    exact hs
  case inr.inl =>
    cases h.symm.trans hstep
    exact resetRegisters_keeps_wf (hrest rest)
  case inr.inr =>
    obtain ⟨u, hu, -⟩ := encCycle_frame c.enc { s with input := rest }
    rw [hu, andThen_next, hstep] at h
    exact decCycle_keeps_wf (encCycle_keeps_wf (hrest rest) hu) h.symm

end Sys2Proof.Proofs

/-! PROOFS, family 10_state.md. What presenting a beat does, on the fields of its word: the port's step on them, legal or
not (R54, R70). The lanes that a decoded operation does not carry make no difference (R43). -/

namespace Sys2Proof.Proofs

open Sys2Proof.Machine Sys2Proof.Laws

/-! ## The ENC port -/

/-- R44: `last` is the first of the selecting bits. -/
theorem encLast_eq_encSelect (w : EncWord) : encLast w = (encSelect w).getLsbD 2 := by simp [encLast, encSelect]

/-- R44: `cnt` is the rest of the selecting bits. -/
theorem encCnt_eq_encSelect (w : EncWord) : encCnt w = (encSelect w).extractLsb' 0 2 := by
  rw [encSelect_eq, BitVec.extractLsb'_append_eq_right]

/-- R44, R46: the framing check refuses the three values of the selecting bits that are no operation's. -/
theorem encFraming_encSelect : ∀ k : BitVec 3,
    k ≠ 0b011#3 → k ≠ 0b111#3 → k ≠ 0b110#3 → k ≠ 0b101#3 → k ≠ 0b100#3 →
    encFraming (k.getLsbD 2) (k.extractLsb' 0 2) = some .encPartialNotLast := by decide

/-- A beat that fails the ENC framing check is an illegal beat, on a faulted port too. -/
theorem encStep_of_framing_some {last : Bool} {cnt : BitVec 2} {code : FaultCode} (b0 b1 b2 : Byte) (s : State)
    (hp : code.port = .enc) (hf : encFraming last cnt = some code) :
    encStep last cnt b0 b1 b2 s = .next (illegalBeat code s) := by
  cases h : s.encFault
  · simp [encStep_illegal h hf, illegalBeat, hp, portFaulted, h]
  · simp [encStep_faulted h, illegalBeat, hp, portFaulted, h]

/-- R54: presenting an ENC beat is the port's step on the fields of its word. -/
theorem acceptEnc_eq_encStep (w : EncWord) (s : State) :
    acceptEnc w s = encStep (encLast w) (encCnt w) (encB0 w) (encB1 w) (encB2 w) s := by
  rw [encLast_eq_encSelect, encCnt_eq_encSelect, acceptEnc, decodeEnc]
  split_ifs with h3 h7 h6 h5 h4
  case neg => exact (encStep_of_framing_some _ _ _ s rfl (encFraming_encSelect _ h3 h7 h6 h5 h4)).symm
  all_goals
    rw [‹encSelect w = _›]
    rfl

/-! ## The DEC port -/

/-- R45: `last` is the first of the selecting bits. -/
theorem decLast_eq_decSelect (w : DecWord) : decLast w = (decSelect w).getLsbD 3 := by simp [decLast, decSelect]

/-- R45: `cnt` is the rest of the selecting bits. -/
theorem decCnt_eq_decSelect (w : DecWord) : decCnt w = (decSelect w).extractLsb' 0 3 := by
  rw [decSelect_eq, BitVec.extractLsb'_append_eq_right]

/-- A beat that fails the DEC framing check is an illegal beat, on a faulted port too. -/
theorem decStep_of_framing_some {last : Bool} {cnt : BitVec 3} {code : FaultCode} (c0 c1 c2 c3 : Byte) {s : State}
    (hf : decFraming last cnt s.decOpen = some code) :
    decStep last cnt c0 c1 c2 c3 s = .next (illegalBeat code s) := by
  have hp := decFraming_port hf
  cases h : s.decFault
  · simp [decStep_illegal h hf, illegalBeat, hp, portFaulted, h]
  · simp [decStep_faulted h, illegalBeat, hp, portFaulted, h]

/-- R45, R46: the framing check refuses the ten values of the selecting bits that are no operation's. -/
theorem decFraming_decSelect (isOpen : Bool) : ∀ k : BitVec 4,
    k ≠ 0b0100#4 → k ≠ 0b1100#4 → k ≠ 0b1011#4 → k ≠ 0b1010#4 → k ≠ 0b1001#4 → k ≠ 0b1000#4 →
    decFraming (k.getLsbD 3) (k.extractLsb' 0 3) isOpen =
      some (if 4#3 < k.extractLsb' 0 3 then .decCntRange else .decPartialNotLast) := by
  cases isOpen <;> decide

/-- R43: a lane's flag does not depend on what stands on a lane that is not valid. -/
theorem inLane_laneOrZero (i cnt : BitVec 3) (flag : Byte → Bool) (c : Byte) :
    inLane i cnt (flag (laneOrZero (decide (i < cnt)) c)) = inLane i cnt (flag c) := by
  by_cases h : i < cnt <;> simp [inLane, laneOrZero, h]

/-- R68: a group that is not full gives no byte, whatever its lanes hold. -/
theorem decBytes_zero (w : BitVec 24) : decBytes w 0#2 = 0#24 := by simp [decBytes, laneOrZero]

/-- R43: the decoder's finding does not depend on the lanes from `cnt` on. -/
theorem decGroup_laneOrZero (last : Bool) (cnt : BitVec 3) (c0 c1 c2 c3 : Byte) :
    decGroup last cnt (laneOrZero (decide (0#3 < cnt)) c0) (laneOrZero (decide (1#3 < cnt)) c1)
      (laneOrZero (decide (2#3 < cnt)) c2) (laneOrZero (decide (3#3 < cnt)) c3) =
    decGroup last cnt c0 c1 c2 c3 := by
  by_cases h4 : cnt = 4#3
  · subst h4
    rfl
  · simp only [decGroup, pv, inLane_laneOrZero _ _ (fun c => (classify c).bad),
      inLane_laneOrZero _ _ (fun c => (classify c).pad), h4, if_false, decBytes_zero, beq_iff_eq, Bool.and_eq_true,
      and_false]

/-- R43: neither does the port's step. -/
theorem decStep_laneOrZero (last : Bool) (cnt : BitVec 3) (c0 c1 c2 c3 : Byte) (s : State) :
    decStep last cnt (laneOrZero (decide (0#3 < cnt)) c0) (laneOrZero (decide (1#3 < cnt)) c1)
      (laneOrZero (decide (2#3 < cnt)) c2) (laneOrZero (decide (3#3 < cnt)) c3) s =
    decStep last cnt c0 c1 c2 c3 s := by
  simp only [decStep, decResponse, decGroup_laneOrZero]

/-- R70: presenting a DEC beat is the port's step on the fields of its word. -/
theorem acceptDec_eq_decStep (w : DecWord) (s : State) :
    acceptDec w s = decStep (decLast w) (decCnt w) (decC0 w) (decC1 w) (decC2 w) (decC3 w) s := by
  rw [← decStep_laneOrZero, decLast_eq_decSelect, acceptDec, decodeDec, decCnt_eq_decSelect]
  split_ifs with h4 hC hB hA h9 h8 hr
  case pos | pos | pos | pos | pos | pos =>
    rw [‹decSelect w = _›]
    rfl
  all_goals
    have hf := decFraming_decSelect s.decOpen _ h4 hC hB hA h9 h8
    simp only [hr, if_true, if_false] at hf
    exact (decStep_of_framing_some _ _ _ _ hf).symm

end Sys2Proof.Proofs

/-! PROOFS, family 10_state.md. The two ports in one cycle (R18, R34, R104): what a port's part of a cycle does depends on
that port alone, so both parts can be told from the state before the cycle, in either order. -/

namespace Sys2Proof.Proofs

open Sys2Proof.Machine Sys2Proof.Laws

/-! ## A port's step reads its own port only -/

/-- Everything that the ENC port's step can do (R54): nothing (out of service), the Fault of the framing check, or the legal
step. -/
theorem encStep_cases (last : Bool) (cnt : BitVec 2) (b0 b1 b2 : Byte) (s : State) :
    (s.encFault = true ∧ encStep last cnt b0 b1 b2 s = .next s) ∨
    (s.encFault = false ∧ encFraming last cnt = some .encPartialNotLast ∧
      encStep last cnt b0 b1 b2 s = .next (raiseFault .encPartialNotLast s)) ∨
    (s.encFault = false ∧ encFraming last cnt = none ∧
      encStep last cnt b0 b1 b2 s = .next (encAfter last cnt b0 b1 b2 s)) := by
  cases hF : s.encFault with
  | true => exact .inl ⟨rfl, encStep_faulted hF⟩
  | false =>
    cases hf : encFraming last cnt with
    | none => exact .inr (.inr ⟨rfl, rfl, encStep_legal hF hf⟩)
    | some code =>
      obtain rfl := encFraming_some hf
      exact .inr (.inl ⟨rfl, rfl, encStep_illegal hF hf⟩)

/-- Everything that the DEC port's step can do (R70). -/
theorem decStep_cases (last : Bool) (cnt : BitVec 3) (c0 c1 c2 c3 : Byte) (s : State) :
    (s.decFault = true ∧ decStep last cnt c0 c1 c2 c3 s = .next s) ∨
    (s.decFault = false ∧ ∃ code, decFraming last cnt s.decOpen = some code ∧
      decStep last cnt c0 c1 c2 c3 s = .next (raiseFault code s)) ∨
    (s.decFault = false ∧ decFraming last cnt s.decOpen = none ∧
      decStep last cnt c0 c1 c2 c3 s = .next (decAfter last cnt c0 c1 c2 c3 s)) := by
  cases hF : s.decFault with
  | true => exact .inl ⟨rfl, decStep_faulted hF⟩
  | false =>
    cases hf : decFraming last cnt s.decOpen with
    | none => exact .inr (.inr ⟨rfl, rfl, decStep_legal hF hf⟩)
    | some code => exact .inr (.inl ⟨rfl, code, rfl, decStep_illegal hF hf⟩)

/-- R34 (a): the ENC port's step looks at the ENC port and the parameters only. -/
theorem encStep_sameEncPort {last : Bool} {cnt : BitVec 2} {b0 b1 b2 : Byte} {s s' t t' : State}
    (hcfg : s'.cfg = s.cfg) (hs : SameEncPort s s') (h : encStep last cnt b0 b1 b2 s = .next t)
    (h' : encStep last cnt b0 b1 b2 s' = .next t') : SameEncPort t t' := by
  obtain ⟨holen, hfault, hout⟩ := hs
  obtain ⟨hF, he⟩ | ⟨hF, hf, he⟩ | ⟨hF, hf, he⟩ := encStep_cases last cnt b0 b1 b2 s <;> cases he.symm.trans h
  · cases (encStep_faulted (hfault.trans hF)).symm.trans h'
    exact ⟨holen, hfault, hout⟩
  · cases (encStep_illegal (hfault.trans hF) hf).symm.trans h'
    exact ⟨holen, rfl, congrArg (· ++ [encFaultResponse]) hout⟩
  · cases (encStep_legal (hfault.trans hF) hf).symm.trans h'
    simp [SameEncPort, encAfter, encResponse, hcfg, holen, hfault, hout]

/-- R34 (a): the DEC port's step looks at the DEC port and the parameters only. -/
theorem decStep_sameDecPort {last : Bool} {cnt : BitVec 3} {c0 c1 c2 c3 : Byte} {s s' t t' : State}
    (hcfg : s'.cfg = s.cfg) (hs : SameDecPort s s') (h : decStep last cnt c0 c1 c2 c3 s = .next t)
    (h' : decStep last cnt c0 c1 c2 c3 s' = .next t') : SameDecPort t t' := by
  obtain ⟨holen, hopen, herr, hfault, hout⟩ := hs
  obtain ⟨hF, he⟩ | ⟨hF, code, hf, he⟩ | ⟨hF, hf, he⟩ := decStep_cases last cnt c0 c1 c2 c3 s <;>
    cases he.symm.trans h
  · cases (decStep_faulted (hfault.trans hF)).symm.trans h'
    exact ⟨holen, hopen, herr, hfault, hout⟩
  · have hp := decFraming_port hf
    cases (decStep_illegal (hfault.trans hF) (hopen ▸ hf)).symm.trans h'
    simp [SameDecPort, raiseFault_dec _ _ hp, holen, hopen, herr, hout]
  · cases (decStep_legal (hfault.trans hF) (hopen ▸ hf)).symm.trans h'
    simp [SameDecPort, decAfter, decResponse, hcfg, holen, herr, hfault, hout]

/-- R34 (a), R104: so does the ENC port's part of a cycle. -/
theorem encCycle_sameEncPort {b : Option EncWord} {s s' t t' : State} (h : encCycle b s = .next t)
    (h' : encCycle b s' = .next t') (hcfg : s'.cfg = s.cfg) (hs : SameEncPort s s') : SameEncPort t t' := by
  cases b with
  | none => cases h; cases h'; exact hs
  | some w =>
    exact encStep_sameEncPort hcfg hs ((acceptEnc_eq_encStep w s).symm.trans h)
      ((acceptEnc_eq_encStep w s').symm.trans h')

/-- R34 (a), R104: so does the DEC port's part of a cycle. -/
theorem decCycle_sameDecPort {b : Option DecWord} {s s' t t' : State} (h : decCycle b s = .next t)
    (h' : decCycle b s' = .next t') (hcfg : s'.cfg = s.cfg) (hs : SameDecPort s s') : SameDecPort t t' := by
  cases b with
  | none => cases h; cases h'; exact hs
  | some w =>
    exact decStep_sameDecPort hcfg hs ((acceptDec_eq_decStep w s).symm.trans h)
      ((acceptDec_eq_decStep w s').symm.trans h')

theorem sameEncPort_of_common {s t u : State} (ht : SameEncPort s t) (hu : SameEncPort s u) : SameEncPort t u := by
  simp_all [SameEncPort]

theorem sameDecPort_of_common {s t u : State} (ht : SameDecPort s t) (hu : SameDecPort s u) : SameDecPort t u := by
  simp_all [SameDecPort]

/-- A step with `rst` = 0 leaves on each port what that port's part of the cycle gives from the state before it. -/
theorem step_ports {s t : State} {c : Cycle} {rest : List Cycle} (hin : s.input = c :: rest) (hrst : c.rst = false)
    (hstep : step s = .next t) :
    ∃ u v, encCycle c.enc s = .next u ∧ decCycle c.dec s = .next v ∧ SameEncPort u t ∧ SameDecPort v t := by
  obtain ⟨u, hu, -⟩ := encCycle_frame c.enc s
  obtain ⟨v, hv, -⟩ := decCycle_frame c.dec s
  obtain ⟨u', hu', hcfg, -, hdec, -⟩ := encCycle_frame c.enc { s with input := rest }
  obtain ⟨t', ht', -, -, henc, -⟩ := decCycle_frame c.dec u'
  have hrun : step s = .next t' := by simp [step, clockEdge, hin, runCycle, hrst, hu', ht']
  cases hrun.symm.trans hstep
  have hue : SameEncPort u' u := encCycle_sameEncPort hu' hu rfl ⟨rfl, rfl, rfl⟩
  exact ⟨u, v, hu, hv, sameEncPort_of_common hue henc, decCycle_sameDecPort hv ht' hcfg hdec⟩

/-! ## The order of the ports -/

/-- The parameters, the cycles to come and the two ports are the whole state (R8). -/
theorem state_eq_of_samePorts {s t : State} (hcfg : t.cfg = s.cfg) (hin : t.input = s.input) (he : SameEncPort s t)
    (hd : SameDecPort s t) : t = s := by
  cases s
  cases t
  simp_all [SameEncPort, SameDecPort]

/-- R34 (c): the two parts of a cycle commute, with a beat or without on either port. -/
theorem encCycle_decCycle_comm (e : Option EncWord) (d : Option DecWord) (s : State) :
    andThen (encCycle e s) (decCycle d) = andThen (decCycle d s) (encCycle e) := by
  obtain ⟨u, hu, hucfg, huin, hud, -⟩ := encCycle_frame e s
  obtain ⟨v, hv, hvcfg, hvin, hve, -⟩ := decCycle_frame d s
  obtain ⟨x, hx, hxcfg, hxin, hxe, -⟩ := decCycle_frame d u
  obtain ⟨y, hy, hycfg, hyin, hyd, -⟩ := encCycle_frame e v
  have henc : SameEncPort y x := sameEncPort_of_common (encCycle_sameEncPort hu hy hvcfg hve) hxe
  have hdec : SameDecPort y x := sameDecPort_of_common hyd (decCycle_sameDecPort hv hx hucfg hud)
  have hcfg : x.cfg = y.cfg := by rw [hxcfg, hucfg, hycfg, hvcfg]
  have hin : x.input = y.input := by rw [hxin, huin, hyin, hvin]
  rw [hu, hv, andThen_next, andThen_next, hx, hy, state_eq_of_samePorts hcfg hin henc hdec]

end Sys2Proof.Proofs

/-! PROOFS, family 10_state.md. Beats that are or are not accepted, runs of beats, the flags after a cycle and the output
signals in it (R11, R16 to R19, R112). -/

namespace Sys2Proof.Proofs

open Sys2Proof.Machine Sys2Proof.Laws

/-! ## One beat -/

/-- Settles O29: every register is 0 by definition, and the outputs follow from the two fault bits. -/
theorem resetLeavesEveryRegisterZero : Obligations.ResetLeavesEveryRegisterZero :=
  ⟨rfl, rfl, rfl, rfl, rfl, rfl, rfl, rfl, rfl⟩

/-- Settles O32: an operation is a step of its port, and so is every word, and a faulted port's step does nothing. -/
theorem unacceptedBeatHasNoEffect : Obligations.UnacceptedBeatHasNoEffect := by
  refine ⟨fun i s hs => ?_, fun w s hs => ?_, fun w s hs => ?_⟩
  · cases hp : i.port with
    | enc =>
      obtain ⟨cnt, b0, b1, b2, -, he⟩ := exec_enc hp
      rw [he, encStep_faulted (by simpa [hp, portFaulted] using hs)]
    | dec =>
      obtain ⟨cnt, c0, c1, c2, c3, -, -, he⟩ := exec_dec hp
      rw [he, decStep_faulted (by simpa [hp, portFaulted] using hs)]
  · rw [acceptEnc_eq_encStep, encStep_faulted hs]
  · rw [acceptDec_eq_decStep, decStep_faulted hs]

/-- Presenting a beat that decodes to an operation runs it (R18). -/
theorem acceptBeat_of_decode {b : Beat} {i : Instr} (h : decode b = .ok i) (s : State) : acceptBeat b s = exec i s := by
  cases b with
  | enc w =>
    have h : decodeEnc w = .ok i := h
    simp [acceptBeat, acceptEnc, h]
  | dec w =>
    have h : decodeDec w = .ok i := h
    simp [acceptBeat, acceptDec, h]

/-- Settles O41: the step on one beat is that beat's acceptance. -/
theorem stepRunsTheDecodedInstruction : Obligations.StepRunsTheDecodedInstruction := by
  intro s b i rest hin hdec _
  rw [← acceptBeat_of_decode hdec, ← step_ofBeat, ← hin]

/-- R39, R40, R44, R45: an operation's word decodes to the operation. -/
theorem decode_encode (i : Instr) : decode (encode i) = .ok i := by
  cases i with
  | encE0 | decE0 => rfl
  | _ => simp [decode, encode, decodeEnc, decodeDec]

/-- A beat is answered with a next state that has the same cycles to come. -/
theorem acceptBeat_next (b : Beat) (s : State) : ∃ t, acceptBeat b s = .next t ∧ t.input = s.input := by
  cases b with
  | enc w =>
    obtain ⟨t, ht, -, hin, -⟩ := acceptEnc_frame w s
    exact ⟨t, ht, hin⟩
  | dec w =>
    obtain ⟨t, ht, -, hin, -⟩ := acceptDec_frame w s
    exact ⟨t, ht, hin⟩

/-- A run over beats goes on from where its first beat leads. -/
theorem runSteps_presentBeats_next {b : Beat} {s t : State} (h : acceptBeat b s = .next t) (bs : List Beat) :
    runSteps (bs.length + 1) (presentBeats (b :: bs) s) = runSteps bs.length (presentBeats bs t) := by
  obtain ⟨t', ht', hin⟩ := acceptBeat_next b s
  cases ht'.symm.trans h
  rw [runSteps_presentBeats_cons, h, andThen_next, ← hin]

/-- Two beats, one a cycle. -/
theorem runSteps_two_beats (a b : Beat) (s : State) :
    runSteps 2 (presentBeats [a, b] s) = andThen (acceptBeat a s) (acceptBeat b) := by
  obtain ⟨t, ht, -⟩ := acceptBeat_next a s
  obtain ⟨u, hu, -⟩ := acceptBeat_next b t
  have hfirst := runSteps_presentBeats_next ht [b]
  have hsecond := runSteps_presentBeats_next hu []
  rw [ht, andThen_next, hu]
  exact hfirst.trans hsecond

/-- Settles O39: the cycle runs the ENC beat and then the DEC beat, and the two parts commute. -/
theorem bothPortsInOneCycle : Obligations.BothPortsInOneCycle := by
  intro s e d rest hin
  have hstep : step s = andThen (acceptEnc e { s with input := rest }) (acceptDec d) := by
    simp only [step, clockEdge, hin]
    rfl
  exact ⟨hstep.trans (runSteps_two_beats (.enc e) (.dec d) { s with input := rest }).symm,
    (hstep.trans (encCycle_decCycle_comm (some e) (some d) { s with input := rest })).trans
      (runSteps_two_beats (.dec d) (.enc e) { s with input := rest }).symm⟩

/-! ## `DEC_OPEN` -/

/-- R70 part 3: a DEC operation that raises no Fault leaves `DEC_OPEN` by its `last`. -/
theorem exec_decOpen {i : Instr} {s t : State} (hp : i.port = .dec) (h : exec i s = .next t) (ht : t.decFault = false) :
    t.decOpen = !i.isLast := by
  obtain ⟨cnt, c0, c1, c2, c3, -, -, he⟩ := exec_dec hp
  rw [he] at h
  obtain ⟨hF, hs⟩ | ⟨-, code, hf, hs⟩ | ⟨-, -, hs⟩ := decStep_cases i.isLast cnt c0 c1 c2 c3 s <;> cases hs.symm.trans h
  · simp [hF] at ht
  · simp [raiseFault_dec _ _ (decFraming_port hf)] at ht
  · rfl

/-- A run over operations goes on from where its first operation leads. -/
theorem runBeats_cons {i : Instr} {s t : State} (h : exec i s = .next t) (is : List Instr) :
    runBeats (i :: is) s = runBeats is t := by
  rw [← acceptBeat_of_decode (decode_encode i)] at h
  simpa [runBeats] using runSteps_presentBeats_next h (is.map encode)

/-- After one operation or more, whatever the state was before: the last of them decides. -/
theorem runBeats_decOpen {is : List Instr} {s t : State} (hne : is ≠ []) (hp : ∀ i ∈ is, i.port = .dec)
    (hrun : runBeats is s = .next t) (ht : t.decFault = false) : t.decOpen = messageOpen is := by
  induction is generalizing s with
  | nil => exact absurd rfl hne
  | cons i is ih =>
    obtain ⟨hi, his⟩ := List.forall_mem_cons.1 hp
    obtain ⟨u, hu, -⟩ := exec_next i s
    rw [runBeats_cons hu] at hrun
    cases is with
    | nil =>
      cases hrun
      exact exec_decOpen hi hu ht
    | cons j is => exact ih (List.cons_ne_nil j is) his hrun

/-- Settles O49: with no operation run the port is still closed, else the last operation decides. -/
theorem decOpenTracksTheOpenMessage : Obligations.DecOpenTracksTheOpenMessage := by
  rintro is s t ⟨-, hopen, -, -⟩ hp hrun ht
  by_cases hne : is = []
  · subst hne
    cases hrun
    exact hopen
  · exact runBeats_decOpen hne hp hrun ht

/-! ## The flags after a cycle (R11) -/

theorem raiseFault_encFault {code : FaultCode} (hp : code.port = .enc) (s : State) :
    (raiseFault code s).encFault = true := by
  simp [raiseFault_enc code s hp]

theorem raiseFault_decFault {code : FaultCode} (hp : code.port = .dec) (s : State) :
    (raiseFault code s).decFault = true := by
  simp [raiseFault_dec code s hp]

/-- R60: what the ENC framing check refuses. -/
theorem encFraming_ne_none (last : Bool) (cnt : BitVec 2) : encFraming last cnt ≠ none ↔ last = false ∧ cnt ≠ 3#2 := by
  simp [encFraming]

/-- R77: what the DEC framing check refuses. -/
theorem decFraming_ne_none (last isOpen : Bool) (cnt : BitVec 3) : decFraming last cnt isOpen ≠ none ↔
    last = false ∧ cnt ≠ 4#3 ∨ 4#3 < cnt ∨ last = true ∧ cnt = 0#3 ∧ isOpen = true := by
  cases last <;> cases isOpen <;> revert cnt <;> decide

/-- `ENC_FAULT` after an ENC beat is presented. -/
theorem encStep_encFault {last : Bool} {cnt : BitVec 2} {b0 b1 b2 : Byte} {s t : State}
    (h : encStep last cnt b0 b1 b2 s = .next t) :
    t.encFault = true ↔ s.encFault = true ∨ last = false ∧ cnt ≠ 3#2 := by
  rw [← encFraming_ne_none]
  obtain ⟨hF, he⟩ | ⟨hF, hf, he⟩ | ⟨hF, hf, he⟩ := encStep_cases last cnt b0 b1 b2 s <;> cases he.symm.trans h
  · simp [hF]
  · simp [hf, raiseFault_encFault (code := .encPartialNotLast) rfl s]
  · simp [hF, hf, encAfter]

/-- A DEC beat presented to a port in service fails the framing check and takes the Fault, or is legal. -/
theorem decStep_in_service {last : Bool} {cnt : BitVec 3} {c0 c1 c2 c3 : Byte} {s t : State} (hs : s.decFault = false)
    (h : decStep last cnt c0 c1 c2 c3 s = .next t) :
    (decFraming last cnt s.decOpen ≠ none ∧ ∃ code : FaultCode, code.port = .dec ∧ t = raiseFault code s) ∨
    (decFraming last cnt s.decOpen = none ∧ t = decAfter last cnt c0 c1 c2 c3 s) := by
  obtain ⟨hF, he⟩ | ⟨-, code, hf, he⟩ | ⟨-, hf, he⟩ := decStep_cases last cnt c0 c1 c2 c3 s <;> cases he.symm.trans h
  · simp [hs] at hF
  · exact .inl ⟨by simp [hf], code, decFraming_port hf, rfl⟩
  · exact .inr ⟨hf, rfl⟩

/-- R70 part 3, R71: a legal beat that is not last is a full group, so it fails the message exactly when one of its four
characters is no data character. -/
theorem decAfter_decErr_continuing {cnt : BitVec 3} {c0 c1 c2 c3 : Byte} {s : State}
    (hf : decFraming false cnt s.decOpen = none) : (decAfter false cnt c0 c1 c2 c3 s).decErr = true ↔
      s.decErr = true ∨ ∃ x ∈ [c0, c1, c2, c3], isDataChar x = false := by
  have hcnt : cnt = 4#3 := by
    by_contra hne
    exact (decFraming_ne_none _ _ _).2 (.inl ⟨rfl, hne⟩) hf
  subst hcnt
  simp [decAfter, decErrAfter, decResponse, decGroup_ok_continuing, or_assoc]

/-- The three DEC flags after a DEC beat is presented to a port in service. -/
theorem decStep_flags {last : Bool} {cnt : BitVec 3} {c0 c1 c2 c3 : Byte} {s t : State} (hs : s.decFault = false)
    (h : decStep last cnt c0 c1 c2 c3 s = .next t) :
    (t.decFault = true ↔ last = false ∧ cnt ≠ 4#3 ∨ 4#3 < cnt ∨ last = true ∧ cnt = 0#3 ∧ s.decOpen = true) ∧
    (t.decFault = false → last = true → t.decErr = false ∧ t.decOpen = false) ∧
    (t.decFault = false → last = false → t.decOpen = true ∧
      (t.decErr = true ↔ s.decErr = true ∨ ∃ x ∈ [c0, c1, c2, c3], isDataChar x = false)) ∧
    (t.decFault = true → t.decErr = s.decErr ∧ t.decOpen = s.decOpen) := by
  rw [← decFraming_ne_none]
  obtain ⟨hf, code, hp, rfl⟩ | ⟨hf, rfl⟩ := decStep_in_service hs h
  · have hfault := raiseFault_decFault hp s
    exact ⟨iff_of_true hfault hf, by simp [hfault], by simp [hfault],
      fun _ => ⟨raiseFault_decErr .., raiseFault_decOpen ..⟩⟩
  · have hfault : (decAfter last cnt c0 c1 c2 c3 s).decFault = false := hs
    refine ⟨by simp [hfault, hf], ?_, ?_, by simp [hfault]⟩
    · rintro - rfl
      exact ⟨rfl, rfl⟩
    · rintro - rfl
      exact ⟨rfl, decAfter_decErr_continuing hf⟩

/-- `ENC_FAULT` after the ENC port's part of a cycle. -/
theorem encCycle_encFault {b : Option EncWord} {s t : State} (h : encCycle b s = .next t) :
    t.encFault = true ↔ s.encFault = true ∨ ∃ w ∈ b, encLast w = false ∧ encCnt w ≠ 3#2 := by
  cases b with
  | none =>
    cases h
    simp
  | some w =>
    have hw : acceptEnc w s = .next t := h
    rw [acceptEnc_eq_encStep] at hw
    simpa using encStep_encFault hw

/-- R18: the ENC port's part of a cycle is nothing when the port is faulted or no beat is presented. -/
theorem encCycle_eq_next_self {b : Option EncWord} {s : State} (h : s.encFault = true ∨ b = none) :
    encCycle b s = .next s := by
  cases b with
  | none => rfl
  | some w => exact (acceptEnc_eq_encStep w s).trans (encStep_faulted (by simpa using h))

/-- R18: the DEC port's part of a cycle is nothing when the port is faulted or no beat is presented. -/
theorem decCycle_eq_next_self {b : Option DecWord} {s : State} (h : s.decFault = true ∨ b = none) :
    decCycle b s = .next s := by
  cases b with
  | none => rfl
  | some w => exact (acceptDec_eq_decStep w s).trans (decStep_faulted (by simpa using h))

/-- A step with `rst` = 1 resets the registers (R107). -/
theorem step_of_rst {s : State} {c : Cycle} {rest : List Cycle} (hin : s.input = c :: rest) (hrst : c.rst = true) :
    step s = .next (resetRegisters { s with input := rest }) := by
  simp [step, clockEdge, hin, runCycle, hrst]

/-- Settles O33: a reset cycle clears the four flags; in any other the flags of a port are those after its own part of the
cycle, which is nothing or the port's step on the fields of its beat. -/
theorem flagsMoveOnlyAsListed : Obligations.FlagsMoveOnlyAsListed := by
  intro s t c rest hin hstep
  refine ⟨fun hrst => ?_, fun hrst => ?_⟩
  · cases (step_of_rst hin hrst).symm.trans hstep
    exact ⟨rfl, rfl, rfl, rfl⟩
  · obtain ⟨u, v, hu, hv, ⟨-, hencFault, -⟩, -, hopen, herr, hdecFault, -⟩ := step_ports hin hrst hstep
    rw [hencFault, hdecFault, herr, hopen]
    refine ⟨encCycle_encFault hu, fun hidle => ?_, fun w hw hs => ?_⟩
    · cases (decCycle_eq_next_self hidle).symm.trans hv
      exact ⟨rfl, rfl, rfl⟩
    · have hv : acceptDec w s = .next v := by rwa [show c.dec = some w from hw] at hv
      rw [acceptDec_eq_decStep] at hv
      exact decStep_flags hs hv

/-! ## The output signals of a cycle (R16, R17) -/

/-- R16, R18: an ENC response is present when a beat is presented and the port is ready. -/
theorem encPins_resp_isSome (c : Cycle) (s : State) :
    (encPins c s).resp.isSome = true ↔ c.enc.isSome = true ∧ c.rst = false ∧ s.encFault = false := by
  cases hrst : c.rst <;> cases hF : s.encFault <;> simp [encPins, encReady, hrst, hF]

/-- R17, R18: a DEC response is present when a beat is presented and the port is ready. -/
theorem decPins_resp_isSome (c : Cycle) (s : State) :
    (decPins c s).resp.isSome = true ↔ c.dec.isSome = true ∧ c.rst = false ∧ s.decFault = false := by
  cases hrst : c.rst <;> cases hF : s.decFault <;> simp [decPins, decReady, hrst, hF]

/-- An ENC beat that is accepted is answered with its reply, and `ENC_FAULT` becomes the reply's `fault`. -/
theorem acceptEnc_encReply {w : EncWord} {s t : State} (hs : s.encFault = false) (h : acceptEnc w s = .next t) :
    t.encOut = s.encOut ++ [encReply w s] ∧ t.encFault = (encReply w s).fault := by
  rw [acceptEnc_eq_encStep] at h
  obtain ⟨hF, -⟩ | ⟨-, hf, he⟩ | ⟨-, hf, he⟩ :=
    encStep_cases (encLast w) (encCnt w) (encB0 w) (encB1 w) (encB2 w) s
  · simp [hs] at hF
  · cases he.symm.trans h
    rw [encReply, hf]
    exact ⟨rfl, rfl⟩
  · cases he.symm.trans h
    rw [encReply, hf]
    exact ⟨rfl, hs⟩

/-- A DEC beat that is accepted is answered with its reply, and `DEC_FAULT` becomes the reply's `fault`. -/
theorem acceptDec_decReply {w : DecWord} {s t : State} (hs : s.decFault = false) (h : acceptDec w s = .next t) :
    t.decOut = s.decOut ++ [decReply w s] ∧ t.decFault = (decReply w s).fault := by
  rw [acceptDec_eq_decStep] at h
  obtain ⟨hF, -⟩ | ⟨-, code, hf, he⟩ | ⟨-, hf, he⟩ :=
    decStep_cases (decLast w) (decCnt w) (decC0 w) (decC1 w) (decC2 w) (decC3 w) s
  · simp [hs] at hF
  · rw [raiseFault_dec code s (decFraming_port hf)] at he
    cases he.symm.trans h
    rw [decReply, hf]
    exact ⟨rfl, rfl⟩
  · cases he.symm.trans h
    rw [decReply, hf]
    exact ⟨rfl, hs⟩

/-- The ENC outputs of a cycle with `rst` = 0 are what the ENC port's part of it does. -/
theorem encCycle_encPins {c : Cycle} {s t : State} (hrst : c.rst = false) (h : encCycle c.enc s = .next t) :
    t.encOut = s.encOut ++ (encPins c s).resp.toList ∧ (encPins c s).fault = t.encFault := by
  by_cases hidle : s.encFault = true ∨ c.enc = none
  · cases (encCycle_eq_next_self hidle).symm.trans h
    obtain hF | hb := hidle
    · simp [encPins, encReady, encFaultOut, hF]
    · simp [encPins, encFaultOut, hb]
  · obtain ⟨hF, w, hb⟩ : s.encFault = false ∧ ∃ w, c.enc = some w := by
      simpa [Option.ne_none_iff_exists'] using hidle
    obtain ⟨hout, hfault⟩ := acceptEnc_encReply hF (by rwa [hb] at h : acceptEnc w s = .next t)
    simp [encPins, encReady, encFaultOut, hb, hrst, hF, hout, hfault]

/-- The DEC outputs of a cycle with `rst` = 0 are what the DEC port's part of it does. -/
theorem decCycle_decPins {c : Cycle} {s t : State} (hrst : c.rst = false) (h : decCycle c.dec s = .next t) :
    t.decOut = s.decOut ++ (decPins c s).resp.toList ∧ (decPins c s).fault = t.decFault := by
  by_cases hidle : s.decFault = true ∨ c.dec = none
  · cases (decCycle_eq_next_self hidle).symm.trans h
    obtain hF | hb := hidle
    · simp [decPins, decReady, decFaultOut, hF]
    · simp [decPins, decFaultOut, hb]
  · obtain ⟨hF, w, hb⟩ : s.decFault = false ∧ ∃ w, c.dec = some w := by
      simpa [Option.ne_none_iff_exists'] using hidle
    obtain ⟨hout, hfault⟩ := acceptDec_decReply hF (by rwa [hb] at h : acceptDec w s = .next t)
    simp [decPins, decReady, decFaultOut, hb, hrst, hF, hout, hfault]

/-- Settles O44: a reset cycle shows no response and adds none; in any other each port's outputs are what its own part of
the cycle does, and an idle cycle is such a part that does nothing. -/
theorem outputSignalsAgreeWithTheStep : Obligations.OutputSignalsAgreeWithTheStep := by
  intro s t c rest hin hstep
  have hidle : (encPins Cycle.idle t).fault = t.encFault ∧ (decPins Cycle.idle t).fault = t.decFault :=
    ⟨(encCycle_encPins (c := Cycle.idle) rfl rfl).2, (decCycle_decPins (c := Cycle.idle) rfl rfl).2⟩
  cases hrst : c.rst with
  | true =>
    cases (step_of_rst hin hrst).symm.trans hstep
    have henc : (encPins c s).resp = none := by simp [encPins, encReady, hrst]
    have hdec : (decPins c s).resp = none := by simp [decPins, decReady, hrst]
    exact ⟨by simp [henc], by simp [hdec], by simp [henc], by simp [hdec], nofun, hidle⟩
  | false =>
    obtain ⟨u, v, hu, hv, ⟨-, hencFault, hencOut⟩, -, -, -, hdecFault, hdecOut⟩ := step_ports hin hrst hstep
    obtain ⟨heout, hefault⟩ := encCycle_encPins hrst hu
    obtain ⟨hdout, hdfault⟩ := decCycle_decPins hrst hv
    have hfault := And.intro (hefault.trans hencFault.symm) (hdfault.trans hdecFault.symm)
    refine ⟨hencOut.trans heout, hdecOut.trans hdout, ?_, ?_, fun _ => hfault, hidle⟩
    · simpa [hrst] using encPins_resp_isSome c s
    · simpa [hrst] using decPins_resp_isSome c s

end Sys2Proof.Proofs

/-! PROOFS, family 20_memory.md. The two ROMs and the three kinds of character codes (R22, R24 to R26, R66). -/

namespace Sys2Proof.Proofs

open Sys2Proof.Machine Sys2Proof.Laws

/-- Settles O20: each ROM is compared with its closed form entry by entry. -/
theorem romsInClosedForm : Obligations.RomsInClosedForm := by
  refine ⟨?fwd, ?rev⟩
  case fwd => decide
  case rev => decide

/-! ## `REV` and `FWD` are inverse to each other (R26) -/

/-- R26: the entry of `REV` at a symbol's character is the symbol, with `inv` = 0. -/
theorem rev_fwd : ∀ v : Symbol, rev (fwd v) = 0#1 ++ v := by decide

/-- R24, R25: every code is the character of its `REV` entry's symbol, or reads `REV_INVALID`. -/
theorem fwd_val_rev_or_revInvalid : ∀ c : Byte, fwd (RevEntry.val (rev c)) = c ∨ rev c = revInvalid := by decide

theorem inv_rev_fwd (v : Symbol) : RevEntry.inv (rev (fwd v)) = false := by
  rw [rev_fwd, RevEntry.inv, BitVec.getLsbD_append]
  rfl

theorem val_rev_fwd (v : Symbol) : RevEntry.val (rev (fwd v)) = v := by
  rw [rev_fwd, RevEntry.val, BitVec.extractLsb'_append_eq_right]

/-- R25: `REV_INVALID` has `inv` = 1. -/
theorem rev_ne_revInvalid {c : Byte} (hinv : RevEntry.inv (rev c) = false) : rev c ≠ revInvalid := by
  intro hc
  rw [hc] at hinv
  exact absurd hinv (by decide)

/-- Settles O21: a code whose entry has `inv` = 0 does not read `REV_INVALID`, so it is its symbol's character. -/
theorem reverseRomInvertsForwardRom : Obligations.ReverseRomInvertsForwardRom :=
  ⟨rev_fwd, fun c hinv => (fwd_val_rev_or_revInvalid c).resolve_right (rev_ne_revInvalid hinv)⟩

/-! ## Data characters, padding, invalid characters (R24, R66) -/

/-- R24: no two symbols share a character. -/
theorem fwd_injective : Function.Injective fwd := fun a b h => by
  rw [← val_rev_fwd a, h, val_rev_fwd]

theorem isDataChar_fwd (v : Symbol) : isDataChar (fwd v) = true := by simp [isDataChar, inv_rev_fwd]

/-- R66: what `classify` finds in a symbol's character. -/
theorem classify_fwd (v : Symbol) : classify (fwd v) = { pad := false, bad := false, val := v } := by
  rw [classify_of_isDataChar (isDataChar_fwd v), val_rev_fwd]

/-- R66: what `classify` finds in a code that reads `REV_INVALID` and is not the padding character. -/
theorem classify_of_revInvalid {c : Byte} (h : rev c = revInvalid) (hpad : c ≠ padChar) :
    classify c = { pad := false, bad := true, val := 0 } := by
  simp only [classify, h, beq_eq_false_iff_ne.2 hpad]
  rfl

/-- Settles O22: a symbol's character has `inv` = 0, which neither the padding character nor a code that reads
`REV_INVALID` has. -/
theorem everyCodeIsOneOfThree : Obligations.EveryCodeIsOneOfThree := by
  refine ⟨fun _ _ h => fwd_injective h, fun a => ne_padChar_of_isDataChar (isDataChar_fwd a), fun c => ?_⟩
  obtain hc | hc := fwd_val_rev_or_revInvalid c
  · exact .inl ⟨_, hc.symm, (congrArg classify hc.symm).trans (classify_fwd _)⟩
  by_cases hpad : c = padChar
  · exact .inr (.inl ⟨hpad, hpad ▸ classify_padChar⟩)
  · refine .inr (.inr ⟨?_, hpad, classify_of_revInvalid hc hpad⟩)
    rintro v rfl
    exact rev_ne_revInvalid (inv_rev_fwd v) hc

end Sys2Proof.Proofs

/-! PROOFS, family 20_memory.md. The ports are independent (R34, R104), and a message that is framed as it must be ends
clean (R30, R112). -/

namespace Sys2Proof.Proofs

open Sys2Proof.Machine Sys2Proof.Laws

/-! ## The two ports -/

/-- Settles O38: the two beats are the two parts of one cycle. -/
theorem portsCommute : Obligations.PortsCommute := fun e d s => encCycle_decCycle_comm (some e) (some d) s

theorem sameEncPort_trans {s t u : State} (hst : SameEncPort s t) (htu : SameEncPort t u) : SameEncPort s u := by
  simp_all [SameEncPort]

theorem sameDecPort_trans {s t u : State} (hst : SameDecPort s t) (htu : SameDecPort t u) : SameDecPort s u := by
  simp_all [SameDecPort]

/-- Settles O40: a reset cycle leaves the responses alone and clears the rest; in any other, each port holds what its own
part of the cycle gives, which looks at that port only. -/
theorem portsDoNotInterfere : Obligations.PortsDoNotInterfere := by
  intro s s' t t' c c' rest rest' hin hin' hrst hcfg hstep hstep'
  cases hc : c.rst with
  | true =>
    cases (step_of_rst hin hc).symm.trans hstep
    cases (step_of_rst hin' (hrst.symm.trans hc)).symm.trans hstep'
    exact ⟨fun _ ⟨_, _, _, _, hout⟩ => ⟨rfl, rfl, rfl, rfl, hout⟩, fun _ ⟨_, _, hout⟩ => ⟨rfl, rfl, hout⟩⟩
  | false =>
    obtain ⟨u, v, hu, hv, hut, hvt⟩ := step_ports hin hc hstep
    obtain ⟨u', v', hu', hv', hut', hvt'⟩ := step_ports hin' (hrst.symm.trans hc) hstep'
    refine ⟨fun hdec hs => ?_, fun henc hs => ?_⟩
    · have hvv' : SameDecPort v v' := decCycle_sameDecPort (hdec ▸ hv) hv' hcfg.symm hs
      exact sameDecPort_of_common hvt (sameDecPort_trans hvv' hvt')
    · have huu' : SameEncPort u u' := encCycle_sameEncPort (henc ▸ hu) hu' hcfg.symm hs
      exact sameEncPort_of_common hut (sameEncPort_trans huu' hut')

/-! ## Well-framed messages -/

/-- R30: a well-framed message is one beat that ends it, or a beat that continues it before a well-framed rest that is not
`DEC.E0` alone. -/
theorem wellFramed_cons {p : Port} {i : Instr} {is : List Instr} (h : wellFramed p (i :: is) = true) :
    i.port = p ∧ (is = [] ∧ i.isLast = true ∨ i.isLast = false ∧ wellFramed p is = true ∧ is ≠ [.decE0]) := by
  cases is with
  | nil => simpa [wellFramed] using h
  | cons j rest => simpa [wellFramed, and_assoc, imp_iff_not_or, or_comm] using h

/-- R54: an ENC operation on a port in service gives one response without a fault, writes `ENC_OLEN` and nothing else, and
clears it when it ends the message. -/
theorem exec_enc_in_service {i : Instr} {s : State} (hp : i.port = .enc) (hs : s.encFault = false) :
    ∃ r n, exec i s = .next ((s.setEncOlen n).giveEnc r) ∧ r.done = i.isLast ∧ r.fault = false ∧
      (i.isLast = true → n = 0) := by
  obtain ⟨cnt, b0, b1, b2, hf, he⟩ := exec_enc hp
  exact ⟨_, _, (he s).trans (encStep_legal hs hf), rfl, rfl, fun hl => if_pos hl⟩

/-- R70: a DEC operation on a port in service, `DEC.E0` with no message open, gives one response without a fault, writes the
per-message registers and nothing else, and clears them when it ends the message. -/
theorem exec_dec_in_service {i : Instr} {s : State} (hp : i.port = .dec) (hs : s.decFault = false)
    (hopen : i = .decE0 → s.decOpen = false) :
    ∃ r n err, exec i s = .next ((s.setDecMessage n err (!i.isLast)).giveDec r) ∧ r.done = i.isLast ∧
      r.fault = false ∧ (i.isLast = true → n = 0 ∧ err = false) := by
  obtain ⟨cnt, c0, c1, c2, c3, hf, -, he⟩ := exec_dec hp
  exact ⟨_, _, _, (he s).trans (decStep_legal hs (hf _ hopen)), rfl, rfl,
    fun hl => ⟨if_pos hl, by simp [decErrAfter, hl]⟩⟩

/-- R30, R112: a well-framed message on the ENC port, whatever `ENC_OLEN` is at its start. -/
theorem runBeats_wellFramed_enc {is : List Instr} {s : State} (h : wellFramed .enc is = true) (hs : s.encFault = false) :
    ∃ rs r, runBeats is s = .next { s with encOlen := 0, encOut := s.encOut ++ (rs ++ [r]) } ∧
      rs.length + 1 = is.length ∧ r.done = true ∧ r.fault = false ∧ ∀ x ∈ rs, x.done = false ∧ x.fault = false := by
  induction is generalizing s with
  | nil => simp [wellFramed] at h
  | cons i is ih =>
    obtain ⟨hp, hcases⟩ := wellFramed_cons h
    obtain ⟨q, n, he, hdone, hfault, hn⟩ := exec_enc_in_service hp hs
    rw [runBeats_cons he]
    obtain ⟨rfl, hlast⟩ | ⟨hlast, hrest, -⟩ := hcases
    · obtain rfl := hn hlast
      exact ⟨[], q, rfl, rfl, hdone.trans hlast, hfault, nofun⟩
    · obtain ⟨rs, r, hrun, hlen, hrdone, hrfault, hall⟩ := ih (s := (s.setEncOlen n).giveEnc q) hrest hs
      refine ⟨q :: rs, r, ?_, congrArg (· + 1) hlen, hrdone, hrfault, ?_⟩
      · simpa [State.giveEnc, State.setEncOlen] using hrun
      · exact List.forall_mem_cons.2 ⟨⟨hdone.trans hlast, hfault⟩, hall⟩

/-- R30, R112: a well-framed message on the DEC port, or what is left of it when the port has a message open. -/
theorem runBeats_wellFramed_dec {is : List Instr} {s : State} (h : wellFramed .dec is = true) (hs : s.decFault = false)
    (hopen : is = [.decE0] → s.decOpen = false) :
    ∃ rs r, runBeats is s =
        .next { s with decOlen := 0, decOpen := false, decErr := false, decOut := s.decOut ++ (rs ++ [r]) } ∧
      rs.length + 1 = is.length ∧ r.done = true ∧ r.fault = false ∧ ∀ x ∈ rs, x.done = false ∧ x.fault = false := by
  induction is generalizing s with
  | nil => simp [wellFramed] at h
  | cons i is ih =>
    obtain ⟨hp, hcases⟩ := wellFramed_cons h
    have hE0 : i = .decE0 → s.decOpen = false := by
      rintro rfl
      obtain ⟨rfl, -⟩ | ⟨hlast, -⟩ := hcases
      · exact hopen rfl
      · cases hlast
    obtain ⟨q, n, err, he, hdone, hfault, hend⟩ := exec_dec_in_service hp hs hE0
    rw [runBeats_cons he]
    obtain ⟨rfl, hlast⟩ | ⟨hlast, hrest, hne⟩ := hcases
    · obtain ⟨rfl, rfl⟩ := hend hlast
      rw [hlast]
      exact ⟨[], q, rfl, rfl, hdone.trans hlast, hfault, nofun⟩
    · obtain ⟨rs, r, hrun, hlen, hrdone, hrfault, hall⟩ :=
        ih (s := (s.setDecMessage n err (!i.isLast)).giveDec q) hrest hs (absurd · hne)
      refine ⟨q :: rs, r, ?_, congrArg (· + 1) hlen, hrdone, hrfault, ?_⟩
      · simpa [State.giveDec, State.setDecMessage] using hrun
      · exact List.forall_mem_cons.2 ⟨⟨hdone.trans hlast, hfault⟩, hall⟩

/-- Settles O50: the registers that the DEC message leaves at 0 were 0 on the clean port. -/
theorem wellFramedMessageEndsClean : Obligations.WellFramedMessageEndsClean := by
  refine ⟨fun is s h hs => runBeats_wellFramed_enc h hs, fun is s h ⟨hs, hopen, holen, herr⟩ => ?_⟩
  obtain ⟨rs, r, hrun, hrest⟩ := runBeats_wellFramed_dec h hs fun _ => hopen
  exact ⟨rs, r, by rw [hrun, hopen, holen, herr], hrest⟩

end Sys2Proof.Proofs

/-! PROOFS, family 30_encoding.md. From a beat to its operation and back (R39, R40, R43 to R48): a word is its fields one
after another, and the decoder reads the selecting bits and the valid lanes alone. -/

namespace Sys2Proof.Proofs

open Sys2Proof.Machine Sys2Proof.Laws

/-- Settles O24: the decoder finds each field of the word that the encoder wrote. -/
theorem decodeGivesBackTheEncodedInstruction : Obligations.DecodeGivesBackTheEncodedInstruction :=
  fun i _ => decode_encode i

/-! ## The ignored lanes, cleared -/

/-- R39: an ENC word is its fields, one after another. -/
theorem encWord_eq_append (w : EncWord) : w = encSelect w ++ encB0 w ++ encB1 w ++ encB2 w := by
  simp only [encSelect, encB0, encB1, encB2, BitVec.extractLsb'_append_extractLsb'_eq_extractLsb',
    BitVec.extractLsb'_eq_self]

/-- R40: a DEC word is its fields, one after another. -/
theorem decWord_eq_append (w : DecWord) : w = decSelect w ++ decC0 w ++ decC1 w ++ decC2 w ++ decC3 w := by
  simp only [decSelect, decC0, decC1, decC2, decC3, BitVec.extractLsb'_append_extractLsb'_eq_extractLsb',
    BitVec.extractLsb'_eq_self]

/-- A mask over the lanes of an ENC word acts lane by lane. -/
theorem encWord_mask (k : BitVec 3) (b0 b1 b2 m0 m1 m2 : Byte) :
    (k ++ b0 ++ b1 ++ b2) &&& (0b111#3 ++ m0 ++ m1 ++ m2) = k ++ (b0 &&& m0) ++ (b1 &&& m1) ++ (b2 &&& m2) := by
  have hk : k &&& 0b111#3 = k := BitVec.and_allOnes
  simp only [BitVec.and_append, hk]

/-- A mask over the lanes of a DEC word acts lane by lane. -/
theorem decWord_mask (k : BitVec 4) (c0 c1 c2 c3 m0 m1 m2 m3 : Byte) :
    (k ++ c0 ++ c1 ++ c2 ++ c3) &&& (0b1111#4 ++ m0 ++ m1 ++ m2 ++ m3) =
      k ++ (c0 &&& m0) ++ (c1 &&& m1) ++ (c2 &&& m2) ++ (c3 &&& m3) := by
  have hk : k &&& 0b1111#4 = k := BitVec.and_allOnes
  simp only [BitVec.and_append, hk]

/-- A lane that the mask keeps. -/
theorem lane_and_keep (b : Byte) : b &&& 0xFF#8 = b := BitVec.and_allOnes

/-- R44, R48: an ENC word that decodes is its operation's word, up to the ignored lanes. -/
theorem encode_of_decodeEnc {w : EncWord} {i : Instr} (h : decodeEnc w = .ok i) :
    encode i = clearIgnored (.enc w) := by
  obtain ⟨k, b0, b1, b2, rfl⟩ : ∃ k b0 b1 b2, w = k ++ b0 ++ b1 ++ b2 := ⟨_, _, _, _, encWord_eq_append w⟩
  have hT2 := encWord_mask k b0 b1 b2 0xFF#8 0xFF#8 0x00#8
  have hT1 := encWord_mask k b0 b1 b2 0xFF#8 0x00#8 0x00#8
  have hE0 := encWord_mask k b0 b1 b2 0x00#8 0x00#8 0x00#8
  simp only [lane_and_keep, BitVec.and_zero] at hT2 hT1 hE0
  simp only [decodeEnc, encSelect_append, encB0_append, encB1_append, encB2_append] at h
  simp only [clearIgnored, encSelect_append]
  split_ifs at h <;> cases h <;> subst k
  · rfl
  · rfl
  · exact congrArg Beat.enc hT2.symm
  · exact congrArg Beat.enc hT1.symm
  · exact congrArg Beat.enc hE0.symm

/-- R45, R48: a DEC word that decodes is its operation's word, up to the ignored lanes. -/
theorem encode_of_decodeDec {w : DecWord} {i : Instr} (h : decodeDec w = .ok i) :
    encode i = clearIgnored (.dec w) := by
  obtain ⟨k, c0, c1, c2, c3, rfl⟩ : ∃ k c0 c1 c2 c3, w = k ++ c0 ++ c1 ++ c2 ++ c3 :=
    ⟨_, _, _, _, _, decWord_eq_append w⟩
  have hL3 := decWord_mask k c0 c1 c2 c3 0xFF#8 0xFF#8 0xFF#8 0x00#8
  have hL2 := decWord_mask k c0 c1 c2 c3 0xFF#8 0xFF#8 0x00#8 0x00#8
  have hL1 := decWord_mask k c0 c1 c2 c3 0xFF#8 0x00#8 0x00#8 0x00#8
  have hE0 := decWord_mask k c0 c1 c2 c3 0x00#8 0x00#8 0x00#8 0x00#8
  simp only [lane_and_keep, BitVec.and_zero] at hL3 hL2 hL1 hE0
  simp only [decodeDec, decSelect_append, decC0_append, decC1_append, decC2_append, decC3_append] at h
  simp only [clearIgnored, decSelect_append]
  split_ifs at h <;> cases h <;> subst k
  · rfl
  · rfl
  · exact congrArg Beat.dec hL3.symm
  · exact congrArg Beat.dec hL2.symm
  · exact congrArg Beat.dec hL1.symm
  · exact congrArg Beat.dec hE0.symm

/-- R48: a beat that decodes is its operation's beat, up to the ignored lanes. -/
theorem encode_of_decode {b : Beat} {i : Instr} (h : decode b = .ok i) : encode i = clearIgnored b := by
  cases b with
  | enc w => exact encode_of_decodeEnc h
  | dec w => exact encode_of_decodeDec h

/-- R46: an illegal beat has no operation that would ignore a lane. -/
theorem clearIgnored_of_illegal {b : Beat} {code : FaultCode} (h : decode b = .error code) : clearIgnored b = b := by
  cases b with
  | enc w =>
    simp only [decode, decodeEnc] at h
    split_ifs at h with h3 h7 h6 h5 h4
    simp [clearIgnored, h6, h5, h4]
  | dec w =>
    simp only [decode, decodeDec] at h
    split_ifs at h with h4 hC hB hA h9 h8 <;> simp [clearIgnored, hB, hA, h9, h8]

/-- Settles O25: a legal beat is cleared to its operation's word, which decodes as it did, and an illegal one stays. -/
theorem encodeGivesBackTheDecodedWord : Obligations.EncodeGivesBackTheDecodedWord := by
  refine ⟨fun b i h => encode_of_decode h, fun b => ?_⟩
  cases h : decode b with
  | ok i => rw [← encode_of_decode h, decode_encode]
  | error code => rw [clearIgnored_of_illegal h, h]

/-! ## The ignored lanes, unread -/

/-- R43, R44: the decoder reads of an ENC word the selecting bits and the lanes below `cnt`. -/
theorem decodeEnc_congr {w w' : EncWord} (hk : encSelect w = encSelect w')
    (h0 : 1 ≤ (encCnt w).toNat → encB0 w = encB0 w') (h1 : 2 ≤ (encCnt w).toNat → encB1 w = encB1 w')
    (h2 : 3 ≤ (encCnt w).toNat → encB2 w = encB2 w') : decodeEnc w = decodeEnc w' := by
  rw [encCnt_eq_encSelect] at h0 h1 h2
  unfold decodeEnc
  rw [← hk]
  split_ifs with h3 h7 h6 h5 h4
  · rw [h3] at h0 h1 h2
    rw [h0 (by decide), h1 (by decide), h2 (by decide)]
  · rw [h7] at h0 h1 h2
    rw [h0 (by decide), h1 (by decide), h2 (by decide)]
  · rw [h6] at h0 h1
    rw [h0 (by decide), h1 (by decide)]
  · rw [h5] at h0
    rw [h0 (by decide)]
  · rfl
  · rfl

/-- R43, R45: the decoder reads of a DEC word the selecting bits and the lanes below `cnt`. -/
theorem decodeDec_congr {w w' : DecWord} (hk : decSelect w = decSelect w')
    (h0 : 1 ≤ (decCnt w).toNat → decC0 w = decC0 w') (h1 : 2 ≤ (decCnt w).toNat → decC1 w = decC1 w')
    (h2 : 3 ≤ (decCnt w).toNat → decC2 w = decC2 w') (h3 : 4 ≤ (decCnt w).toNat → decC3 w = decC3 w') :
    decodeDec w = decodeDec w' := by
  have hcnt : decCnt w' = decCnt w := by rw [decCnt_eq_decSelect, decCnt_eq_decSelect, hk]
  rw [decCnt_eq_decSelect] at h0 h1 h2 h3
  unfold decodeDec
  rw [← hk, hcnt]
  split_ifs with h4 hC hB hA h9 h8
  · rw [h4] at h0 h1 h2 h3
    rw [h0 (by decide), h1 (by decide), h2 (by decide), h3 (by decide)]
  · rw [hC] at h0 h1 h2 h3
    rw [h0 (by decide), h1 (by decide), h2 (by decide), h3 (by decide)]
  · rw [hB] at h0 h1 h2
    rw [h0 (by decide), h1 (by decide), h2 (by decide)]
  · rw [hA] at h0 h1
    rw [h0 (by decide), h1 (by decide)]
  · rw [h9] at h0
    rw [h0 (by decide)]
  all_goals rfl

/-- Settles O26: the two words decode alike, and a port looks at a word through the decoder alone. -/
theorem ignoredLanesNeverMatter : Obligations.IgnoredLanesNeverMatter := by
  refine ⟨fun w w' s hk h0 h1 h2 => ?_, fun w w' s hk h0 h1 h2 h3 => ?_⟩
  · rw [acceptEnc, acceptEnc, decodeEnc_congr hk h0 h1 h2]
  · rw [acceptDec, acceptDec, decodeDec_congr hk h0 h1 h2 h3]

/-! ## Written beats -/

/-- R48: a written beat reads as an operation only when it is that operation, written down. -/
theorem eq_written_of_instr? {b : Written} {i : Instr} (h : b.instr? = some i) :
    b = { op := i.op, lanes := i.lanes } := by
  obtain ⟨op, lanes⟩ := b
  -- no operation takes more than four lanes
  rcases lanes with _ | ⟨x0, _ | ⟨x1, _ | ⟨x2, _ | ⟨x3, _ | ⟨x4, rest⟩⟩⟩⟩⟩
  all_goals cases op <;> cases h <;> rfl

/-- R48: every written beat with the right number of lanes is an operation, written down. -/
theorem exists_instr_of_length {op : Op} {lanes : List Byte} (h : lanes.length = op.cnt) :
    ∃ i : Instr, i.op = op ∧ i.lanes = lanes := by
  cases op with
  | encG3 => obtain ⟨b0, b1, b2, rfl⟩ := List.length_eq_three.1 h; exact ⟨.encG3 b0 b1 b2, rfl, rfl⟩
  | encG3L => obtain ⟨b0, b1, b2, rfl⟩ := List.length_eq_three.1 h; exact ⟨.encG3L b0 b1 b2, rfl, rfl⟩
  | encT2 => obtain ⟨b0, b1, rfl⟩ := List.length_eq_two.1 h; exact ⟨.encT2 b0 b1, rfl, rfl⟩
  | encT1 => obtain ⟨b0, rfl⟩ := List.length_eq_one_iff.1 h; exact ⟨.encT1 b0, rfl, rfl⟩
  | encE0 => obtain rfl := List.length_eq_zero_iff.1 h; exact ⟨.encE0, rfl, rfl⟩
  | decG4 => obtain ⟨c0, c1, c2, c3, rfl⟩ := List.length_eq_four.1 h; exact ⟨.decG4 c0 c1 c2 c3, rfl, rfl⟩
  | decL4 => obtain ⟨c0, c1, c2, c3, rfl⟩ := List.length_eq_four.1 h; exact ⟨.decL4 c0 c1 c2 c3, rfl, rfl⟩
  | decL3 => obtain ⟨c0, c1, c2, rfl⟩ := List.length_eq_three.1 h; exact ⟨.decL3 c0 c1 c2, rfl, rfl⟩
  | decL2 => obtain ⟨c0, c1, rfl⟩ := List.length_eq_two.1 h; exact ⟨.decL2 c0 c1, rfl, rfl⟩
  | decL1 => obtain ⟨c0, rfl⟩ := List.length_eq_one_iff.1 h; exact ⟨.decL1 c0, rfl, rfl⟩
  | decE0 => obtain rfl := List.length_eq_zero_iff.1 h; exact ⟨.decE0, rfl, rfl⟩

/-- Settles O27: with the right number of lanes the beat is an operation `i`, written down, and assembles to `encode i`;
with another number it is no operation's written form. -/
theorem writtenBeatAssembles : Obligations.WrittenBeatAssembles := by
  rintro ⟨op, lanes⟩
  refine ⟨fun hlen => ?_, fun hlen => ?_⟩
  · obtain ⟨i, rfl, rfl⟩ := exists_instr_of_length hlen
    have hclear : clearIgnored (encode i) = encode i := (encode_of_decode (decode_encode i)).symm
    exact ⟨encode i, i, by rw [assemble, instr?_written, Option.map_some], decode_encode i, hclear, rfl, rfl⟩
  · rw [assemble, Option.map_eq_none_iff, Option.eq_none_iff_forall_ne_some]
    intro i hi
    cases eq_written_of_instr? hi
    exact hlen (beq_iff_eq.1 (wellFormed_instr i))

/-- Settles O28: the decoder and the assembler, run on the nine words. -/
theorem writtenWordsDecode : Obligations.WrittenWordsDecode := ⟨rfl, rfl, rfl, rfl, rfl, rfl, rfl, rfl, rfl⟩

/-! ## The step on an illegal beat -/

/-- Presenting a beat that the decoder refuses is an illegal beat (R46). -/
theorem acceptBeat_of_illegal {b : Beat} {code : FaultCode} (h : decode b = .error code) (s : State) :
    acceptBeat b s = .next (illegalBeat code s) := by
  cases b with
  | enc w =>
    have h : decodeEnc w = .error code := h
    simp [acceptBeat, acceptEnc, h]
  | dec w =>
    have h : decodeDec w = .error code := h
    simp [acceptBeat, acceptDec, h]

/-- A port in service takes the Fault of an illegal beat (R94). -/
theorem illegalBeat_in_service {code : FaultCode} {s : State} (h : portFaulted code.port s = false) :
    illegalBeat code s = raiseFault code s := by simp [illegalBeat, h]

/-- Settles O42: the step on one beat is that beat's acceptance. -/
theorem stepTakesTheFaultOfAnIllegalBeat : Obligations.StepTakesTheFaultOfAnIllegalBeat := by
  intro s b code rest hin hdec hserv
  have hserv : portFaulted code.port { s with input := rest } = false := hserv
  rw [← illegalBeat_in_service hserv, ← acceptBeat_of_illegal hdec, ← step_ofBeat, ← hin]

end Sys2Proof.Proofs

/-! PROOFS, family 40_encoder.md. The slicing of a group (R52, R53, R67): which bits a symbol or a byte is made of. -/

namespace Sys2Proof.Proofs

open Sys2Proof.Machine Sys2Proof.Laws

/-! ## `split24` and `pack24` -/

/-- R52: the symbols of a group, by the bits of its three bytes. -/
theorem split24_append (b0 b1 b2 : Byte) : split24 (b0 ++ b1 ++ b2) =
    (b0.extractLsb' 2 6, b0.extractLsb' 0 2 ++ b1.extractLsb' 4 4, b1.extractLsb' 0 4 ++ b2.extractLsb' 6 2,
      b2.extractLsb' 0 6) := by
  simp [-Nat.reduceAdd, split24, BitVec.extractLsb'_append_eq_ite]

/-- R67: the symbols of four packed symbols. -/
theorem split24_pack24 (v0 v1 v2 v3 : Symbol) : split24 (pack24 v0 v1 v2 v3) = (v0, v1, v2, v3) := by
  simp [-Nat.reduceAdd, split24, pack24, BitVec.extractLsb'_append_eq_ite]

/-- R67: the bytes of four packed symbols. -/
theorem lanes24_pack24 (v0 v1 v2 v3 : Symbol) : lanes24 (pack24 v0 v1 v2 v3) =
    [v0 ++ v1.extractLsb' 4 2, v1.extractLsb' 0 4 ++ v2.extractLsb' 2 4, v2.extractLsb' 0 2 ++ v3] := by
  simp [-Nat.reduceAdd, lanes24, pack24, BitVec.extractLsb'_append_eq_ite]

/-- R67: packing the four symbols of a group loses nothing. -/
theorem pack24_split24 (g : BitVec 24) :
    pack24 (split24 g).1 (split24 g).2.1 (split24 g).2.2.1 (split24 g).2.2.2 = g := by
  simp only [pack24, split24, BitVec.extractLsb'_append_extractLsb'_eq_extractLsb', BitVec.extractLsb'_eq_self]

/-- Settles O23: each cut is at the bits that the rules name, and the four symbols cover the group. -/
theorem packInvertsSplit : Obligations.PackInvertsSplit :=
  ⟨split24_append, fun v0 v1 v2 v3 => ⟨split24_pack24 v0 v1 v2 v3, lanes24_pack24 v0 v1 v2 v3⟩, pack24_split24⟩

/-! ## `enc_group` -/

/-- R53: four characters for three bytes. -/
theorem encGroup_three (b0 b1 b2 : Byte) : encGroup b0 b1 b2 3#2 =
    fwd (b0.extractLsb' 2 6) ++ fwd (b0.extractLsb' 0 2 ++ b1.extractLsb' 4 4) ++
      fwd (b1.extractLsb' 0 4 ++ b2.extractLsb' 6 2) ++ fwd (b2.extractLsb' 0 6) := by
  simp [encGroup, encOperand, laneOrZero, split24_append]

/-- R53: three characters and one padding character for two bytes. -/
theorem encGroup_two (b0 b1 b2 : Byte) : encGroup b0 b1 b2 2#2 =
    fwd (b0.extractLsb' 2 6) ++ fwd (b0.extractLsb' 0 2 ++ b1.extractLsb' 4 4) ++
      fwd (b1.extractLsb' 0 4 ++ 0#2) ++ padChar := by
  simp [encGroup, encOperand, laneOrZero, split24_append]

/-- R53: two characters and two padding characters for one byte. -/
theorem encGroup_one (b0 b1 b2 : Byte) : encGroup b0 b1 b2 1#2 =
    fwd (b0.extractLsb' 2 6) ++ fwd (b0.extractLsb' 0 2 ++ 0#4) ++ padChar ++ padChar := by
  simp [encGroup, encOperand, laneOrZero, split24_append]

/-- Settles O8: each number of valid bytes has its own form, and the padding character is 0x2E. -/
theorem encGroupCutsIntoSymbols : Obligations.EncGroupCutsIntoSymbols :=
  fun b0 b1 b2 => ⟨encGroup_three b0 b1 b2, encGroup_two b0 b1 b2, encGroup_one b0 b1 b2⟩

end Sys2Proof.Proofs

/-! PROOFS, family 40_encoder.md. The five ENC operations and the illegal ENC beat, one beat at a time (R54 to R60, R65). -/

namespace Sys2Proof.Proofs

open Sys2Proof.Machine Sys2Proof.Laws

/-! ## A row of the operation map (R44) -/

/-- R44: the row's mask keeps the selecting bits. -/
theorem encSelect_of_masked {w : EncWord} {k : BitVec 3} (h : w &&& 0x7000000#27 = k ++ 0#8 ++ 0#8 ++ 0#8) :
    encSelect w = k := by
  have hk : encSelect w &&& 0b111#3 = encSelect (w &&& 0x7000000#27) := by
    rw [encSelect, encSelect, BitVec.extractLsb'_and]
    rfl
  rw [h, encSelect_append] at hk
  exact BitVec.and_allOnes.symm.trans hk

/-! ## A legal beat -/

/-- R54: a beat with valid bytes delivers its group and counts four characters. -/
theorem encStep_group (last : Bool) (cnt : BitVec 2) (b0 b1 b2 : Byte) {s : State} (hs : s.encFault = false)
    (hf : encFraming last cnt = none) (hcnt : cnt ≠ 0#2) : encStep last cnt b0 b1 b2 s = .next { s with
      encOlen := if last then 0 else (s.encOlen + 4) % 2 ^ s.cfg.lenW
      encOut := s.encOut ++ [{
        q := encGroup b0 b1 b2 cnt
        qcnt := 4
        done := last
        total := (s.encOlen + 4) % 2 ^ s.cfg.lenW
        fault := false }] } := by
  rw [encStep_legal hs hf]
  simp [encAfter, encResponse, hcnt, countUp, State.giveEnc, State.setEncOlen]

/-- Settles O1: the row selects `ENC.G3`, whose group has three bytes. -/
theorem encG3ContinuesTheMessage : Obligations.EncG3ContinuesTheMessage := by
  refine ⟨fun w hw => ?_, fun b0 b1 b2 s hs => ?_⟩
  · simp [decodeEnc, encSelect_of_masked (k := 0b011#3) hw, encB0, encB1, encB2]
  · rw [← encGroup_three]
    exact encStep_group false 3#2 b0 b1 b2 hs rfl (by decide)

/-- Settles O2: the row selects `ENC.G3L`, whose group has three bytes. -/
theorem encG3LEndsTheMessage : Obligations.EncG3LEndsTheMessage := by
  refine ⟨fun w hw => ?_, fun b0 b1 b2 s hs => ?_⟩
  · simp [decodeEnc, encSelect_of_masked (k := 0b111#3) hw, encB0, encB1, encB2]
  · rw [← encGroup_three]
    exact encStep_group true 3#2 b0 b1 b2 hs rfl (by decide)

/-- Settles O3: the row selects `ENC.T2`, whose group has two bytes. -/
theorem encT2PadsOnce : Obligations.EncT2PadsOnce := by
  refine ⟨fun w hw => ?_, fun b0 b1 s hs => ?_⟩
  · simp [decodeEnc, encSelect_of_masked (k := 0b110#3) hw, encB0, encB1]
  · rw [← padChar, ← encGroup_two b0 b1 0x00#8]
    exact encStep_group true 2#2 b0 b1 0x00#8 hs rfl (by decide)

/-- Settles O4: the row selects `ENC.T1`, whose group has one byte. -/
theorem encT1PadsTwice : Obligations.EncT1PadsTwice := by
  refine ⟨fun w hw => ?_, fun b0 s hs => ?_⟩
  · simp [decodeEnc, encSelect_of_masked (k := 0b101#3) hw, encB0]
  · rw [← padChar, ← encGroup_one b0 0x00#8 0x00#8]
    exact encStep_group true 1#2 b0 0x00#8 0x00#8 hs rfl (by decide)

/-- Settles O5: the row selects `ENC.E0`, which adds nothing to a `LEN_W`-bit count. -/
theorem encE0ClosesWithoutCharacters : Obligations.EncE0ClosesWithoutCharacters := by
  refine ⟨fun w hw => ?_, fun s hs hlt => ?_⟩
  · simp [decodeEnc, encSelect_of_masked (k := 0b100#3) hw]
  · have hcount : countUp s.cfg s.encOlen 0 = s.encOlen := countUp_zero hlt
    have hstep : exec .encE0 s = .next (encAfter true 0#2 0x00#8 0x00#8 0x00#8 s) :=
      encStep_legal (last := true) (cnt := 0#2) hs rfl
    rw [hstep]
    simp [encAfter, encResponse, hcount, State.giveEnc, State.setEncOlen]

/-! ## Every beat -/

/-- Settles O7: presenting a beat is the port's step on the fields of its word, and the framing check refuses just the beats
with `last` = 0 and `cnt` other than 3. -/
theorem encPortRunsEncStep : Obligations.EncPortRunsEncStep := by
  intro w s last cnt q qcnt olen
  have hframe := encFraming_ne_none last cnt
  rw [acceptEnc_eq_encStep]
  obtain ⟨hF, he⟩ | ⟨hF, hf, he⟩ | ⟨hF, hf, he⟩ :=
    encStep_cases (encLast w) (encCnt w) (encB0 w) (encB1 w) (encB2 w) s
  · rw [he, if_pos hF]
  · have hillegal : last = false ∧ cnt ≠ 3#2 := hframe.1 (Option.ne_none_iff_exists'.2 ⟨_, hf⟩)
    rw [he, if_neg (by simp [hF]), if_pos hillegal]
    rfl
  · have hlegal : ¬ (last = false ∧ cnt ≠ 3#2) := fun h => hframe.2 h hf
    rw [he, if_neg (by simp [hF]), if_neg hlegal]
    rfl

/-- Settles O6: the three words decode to no operation, so the port takes the Fault, and a faulted port's step does
nothing. -/
theorem illegalEncBeatFaults : Obligations.IllegalEncBeatFaults := by
  intro w s hs hsel
  have hsel : encSelect w = 0b000#3 ∨ encSelect w = 0b001#3 ∨ encSelect w = 0b010#3 := hsel
  have hdec : decodeEnc w = .error .encPartialNotLast := by
    obtain h | h | h := hsel <;> simp [decodeEnc, h]
  refine ⟨hdec, raiseFault .encPartialNotLast s, ?_, rfl, fun rst => Bool.and_false _, fun w' => ?_⟩
  · rw [← illegalBeat_in_service (code := .encPartialNotLast) hs]
    exact acceptBeat_of_illegal (b := .enc w) hdec s
  · rw [acceptEnc_eq_encStep, encStep_faulted rfl]

/-- Settles O35: on a port in service an ENC operation is a legal step. -/
theorem legalEncBeatsNeverFail : Obligations.LegalEncBeatsNeverFail := by
  intro i s hp hs
  obtain ⟨r, n, he, hdone, hfault, -⟩ := exec_enc_in_service hp hs
  exact ⟨_, r, he, hs, rfl, hfault, hdone⟩

/-- Settles O36: on a faulted port an ENC operation does nothing; in service it writes `ENC_OLEN` and gives a response. -/
theorem encBeatFrame : Obligations.EncBeatFrame := by
  intro i s t hp ht
  cases hs : s.encFault with
  | true =>
    obtain ⟨cnt, b0, b1, b2, -, he⟩ := exec_enc hp
    cases ((he s).trans (encStep_faulted hs)).symm.trans ht
    exact ⟨⟨rfl, rfl, rfl, rfl, rfl⟩, rfl, rfl, hs, nofun, .inl rfl⟩
  | false =>
    obtain ⟨r, n, he, -, -, hn⟩ := exec_enc_in_service hp hs
    cases he.symm.trans ht
    exact ⟨⟨rfl, rfl, rfl, rfl, rfl⟩, rfl, rfl, hs, fun hlast _ => hn hlast, .inr ⟨r, rfl⟩⟩

end Sys2Proof.Proofs

/-! PROOFS, family 40_encoder.md. Messages on the ENC port (R49, R61, R62): a run over a well-framed message delivers the
encodings of its beats' bytes one after another, and both framings of a byte sequence have the same. -/

namespace Sys2Proof.Proofs

open Sys2Proof.Machine Sys2Proof.Laws

/-! ## What a run over ENC beats delivers -/

/-- The encodings of the beats' valid lanes, one after another. -/
def textOfBeats (is : List Instr) : List Byte := is.flatMap fun i => encodeBytes i.lanes

@[simp] theorem textOfBeats_nil : textOfBeats [] = [] := rfl

@[simp] theorem textOfBeats_cons (i : Instr) (is : List Instr) :
    textOfBeats (i :: is) = encodeBytes i.lanes ++ textOfBeats is := rfl

/-- R112: the text of the responses before one and of that one. -/
theorem textOf_concat (rs : List EncResponse) (r : EncResponse) : textOf (rs ++ [r]) = textOf rs ++ r.validLanes := by
  simp [textOf]

/-- R54, R61: on a port in service an ENC operation delivers the encoding of its bytes and counts its characters. -/
theorem exec_enc_delivers {i : Instr} {s : State} (hp : i.port = .enc) (hs : s.encFault = false) :
    ∃ r, exec i s = .next ((s.setEncOlen (if i.isLast then 0 else r.total)).giveEnc r) ∧
      r.validLanes = encodeBytes i.lanes ∧ r.total = (s.encOlen + (encodeBytes i.lanes).length) % 2 ^ s.cfg.lenW := by
  cases i with
  | encG3 => exact ⟨_, encStep_legal (last := false) (cnt := 3#2) hs rfl, rfl, rfl⟩
  | encG3L => exact ⟨_, encStep_legal (last := true) (cnt := 3#2) hs rfl, rfl, rfl⟩
  | encT2 => exact ⟨_, encStep_legal (last := true) (cnt := 2#2) hs rfl, rfl, rfl⟩
  | encT1 => exact ⟨_, encStep_legal (last := true) (cnt := 1#2) hs rfl, rfl, rfl⟩
  | encE0 => exact ⟨_, encStep_legal (last := true) (cnt := 0#2) hs rfl, rfl, rfl⟩
  | decG4 | decL4 | decL3 | decL2 | decL1 | decE0 => cases hp

/-- R54, R112: the text that a run over a well-framed message adds to what was delivered before, and the total that its last
response reports. -/
theorem runBeats_wellFramed_enc_text {is : List Instr} {s t : State} (h : wellFramed .enc is = true)
    (hs : s.encFault = false) (hrun : runBeats is s = .next t) :
    textOf t.encOut = textOf s.encOut ++ textOfBeats is ∧
    t.encOut.getLast?.map EncResponse.total = some ((s.encOlen + (textOfBeats is).length) % 2 ^ s.cfg.lenW) := by
  induction is generalizing s with
  | nil => simp [wellFramed] at h
  | cons i is ih =>
    obtain ⟨hp, hcases⟩ := wellFramed_cons h
    obtain ⟨r, he, hlanes, htotal⟩ := exec_enc_delivers hp hs
    rw [runBeats_cons he] at hrun
    obtain ⟨rfl, -⟩ | ⟨hlast, hrest, -⟩ := hcases
    · cases hrun
      simp [textOf_concat, hlanes, htotal]
    · rw [if_neg (by simp [hlast])] at hrun
      obtain ⟨htext, hreport⟩ := ih (s := (s.setEncOlen r.total).giveEnc r) hrest hs hrun
      refine ⟨by simpa [textOf_concat, hlanes] using htext, hreport.trans ?_⟩
      simp [htotal, Nat.add_assoc]

/-! ## The two framings of a byte sequence -/

/-- R30: a full group before a well-framed rest on the ENC port. -/
theorem wellFramed_encG3_cons {b0 b1 b2 : Byte} {is : List Instr} (h : wellFramed .enc is = true) :
    wellFramed .enc (.encG3 b0 b1 b2 :: is) = true := by
  cases is with
  | nil => simp [wellFramed] at h
  | cons j rest =>
    have hne : j ≠ .decE0 := by
      rintro rfl
      exact absurd (wellFramed_cons h).1 (by decide)
    simp [wellFramed, Instr.port, Instr.isLast, h, hne]

theorem wellFramed_encMsg (b : List Byte) : wellFramed .enc (encMsg b) = true := by
  induction b using encMsg.induct with
  | case1 | case2 | case3 | case4 => rfl
  | case5 b0 b1 b2 b3 rest ih => exact wellFramed_encG3_cons ih

theorem wellFramed_encMsgClosed (b : List Byte) : wellFramed .enc (encMsgClosed b) = true := by
  induction b using encodeBytes.induct with
  | case1 | case2 | case3 => rfl
  | case4 b0 b1 b2 rest ih => exact wellFramed_encG3_cons ih

theorem textOfBeats_encMsg (b : List Byte) : textOfBeats (encMsg b) = encodeBytes b := by
  induction b using encMsg.induct with
  | case1 | case2 | case3 | case4 => rfl
  | case5 b0 b1 b2 b3 rest ih => exact congrArg (encodeBytes [b0, b1, b2] ++ ·) ih

/-- R49: the second framing loses no byte when the bytes fill their groups. -/
theorem textOfBeats_encMsgClosed {b : List Byte} (h : b.length % 3 = 0) :
    textOfBeats (encMsgClosed b) = encodeBytes b := by
  induction b using encodeBytes.induct with
  | case1 => rfl
  | case2 | case3 => cases h
  | case4 b0 b1 b2 rest ih =>
    have hrest : rest.length % 3 = 0 := (Nat.add_mod_right _ 3).symm.trans h
    exact congrArg (encodeBytes [b0, b1, b2] ++ ·) (ih hrest)

/-- Settles O51: a well-framed message ends with one response that is done, and what its responses deliver is the text of its
beats, the same for both framings. -/
theorem encMessageDeliversTheEncoding : Obligations.EncMessageDeliversTheEncoding := by
  rintro b s ⟨hs, holen⟩ is his
  have hframed : wellFramed .enc is = true := by
    obtain rfl | ⟨-, -, rfl⟩ := his
    · exact wellFramed_encMsg b
    · exact wellFramed_encMsgClosed b
  have hbeats : textOfBeats is = encodeBytes b := by
    obtain rfl | ⟨-, hlen, rfl⟩ := his
    · exact textOfBeats_encMsg b
    · exact textOfBeats_encMsgClosed hlen
  obtain ⟨rs, r, hrun, -, hdone, hfault, hall⟩ := runBeats_wellFramed_enc hframed hs
  obtain ⟨htext, htotal⟩ := runBeats_wellFramed_enc_text hframed hs hrun
  rw [hbeats] at htext htotal
  refine ⟨rs, r, by rw [hrun, ← holen], ?_, hdone, ?_, fun x hx => (hall x hx).1, ?_⟩
  · simpa [textOf] using htext
  · simpa [holen, ← List.append_assoc] using htotal
  · exact List.forall_mem_append.2 ⟨fun x hx => (hall x hx).2, List.forall_mem_singleton.2 hfault⟩

/-! ## Lengths (R62, R87) -/

/-- R87: a group of three bytes gives four characters. -/
theorem encodedLength_add_three (n : Nat) : encodedLength (n + 3) = encodedLength n + 4 := by
  simp only [encodedLength, ceilDiv]
  omega

@[simp] theorem lanes32_length (q : BitVec 32) : (lanes32 q).length = 4 := rfl

/-- R62: the number of characters is a function of the number of bytes. -/
theorem encodeBytes_length (b : List Byte) : (encodeBytes b).length = encodedLength b.length := by
  induction b using encodeBytes.induct with
  | case1 => rfl
  | case2 | case3 => simp [encodeBytes, encodedLength, ceilDiv]
  | case4 b0 b1 b2 rest ih =>
    calc (encodeBytes (b0 :: b1 :: b2 :: rest)).length
        = (encodeBytes rest).length + 4 := by simp [encodeBytes, Nat.add_comm]
      _ = encodedLength (rest.length + 3) := by rw [ih, encodedLength_add_three]

/-- R87: no text is empty but that of no byte. -/
theorem encodedLength_eq_zero {n : Nat} : encodedLength n = 0 ↔ n = 0 := by
  simp only [encodedLength, ceilDiv]
  omega

/-- R62: the largest message whose length a counter of `4 * k` values holds. -/
theorem encodedLength_lt_four_mul {n k : Nat} (hk : 0 < k) : encodedLength n < 4 * k ↔ n ≤ 3 * k - 3 := by
  simp only [encodedLength, ceilDiv]
  omega

/-- Settles O55: the run of `ENC.MSG` ends with the response that `encMessageDeliversTheEncoding` gives, and its total is
exact when the length is below 2^`LEN_W`, four times 2^(`LEN_W` - 2). -/
theorem encodedTextHasTheEncodedLength : Obligations.EncodedTextHasTheEncodedLength := by
  refine ⟨fun b => ?_, fun b s t hs hrun => ?_, fun lenW n hw => ?_⟩
  · rw [encodeBytes_length, encodedLength_eq_zero, List.length_eq_zero_iff]
    exact ⟨rfl, Nat.mul_mod_left _ 4, .rfl⟩
  · obtain ⟨rs, r, hmsg, -, hdone, htotal, -, hfault⟩ := encMessageDeliversTheEncoding b s hs _ (.inl rfl)
    cases hmsg.symm.trans hrun
    rw [encodeBytes_length] at htotal
    exact ⟨hs.1, r, by simp [← List.append_assoc], hfault r (by simp), hdone, htotal⟩
  · have hpow : 2 ^ lenW = 4 * 2 ^ (lenW - 2) := by
      rw [show (4 : Nat) = 2 ^ 2 from rfl, ← pow_add, Nat.add_sub_cancel' (by omega)]
    rw [Nat.mod_eq_iff_lt (Nat.two_pow_pos lenW).ne', hpow, encodedLength_lt_four_mul (Nat.two_pow_pos _)]

end Sys2Proof.Proofs

/-! PROOFS, family 40_encoder.md. The characters of an encoding (R63): data characters first, then the padding of the last
group. -/

namespace Sys2Proof.Proofs

open Sys2Proof.Machine Sys2Proof.Laws

/-! ## One group -/

@[simp] theorem fwd_beq_padChar (v : Symbol) : (fwd v == padChar) = false := not_pad_of_isDataChar _ (isDataChar_fwd v)

/-- R61, R63: the text of three bytes is four data characters. -/
theorem encodeBytes_three (b0 b1 b2 : Byte) :
    ∃ v0 v1 v2 v3, encodeBytes [b0, b1, b2] = [fwd v0, fwd v1, fwd v2, fwd v3] := by
  simp only [encodeBytes, encGroup_three, lanes32_append]
  exact ⟨_, _, _, _, rfl⟩

/-- R61, R63: the text of two bytes is three data characters and one of padding. -/
theorem encodeBytes_two (b0 b1 : Byte) : ∃ v0 v1 v2, encodeBytes [b0, b1] = [fwd v0, fwd v1, fwd v2, padChar] := by
  simp only [encodeBytes, encGroup_two, lanes32_append]
  exact ⟨_, _, _, rfl⟩

/-- R61, R63: the text of one byte is two data characters and two of padding. -/
theorem encodeBytes_one (b0 : Byte) : ∃ v0 v1, encodeBytes [b0] = [fwd v0, fwd v1, padChar, padChar] := by
  simp only [encodeBytes, encGroup_one, lanes32_append]
  exact ⟨_, _, rfl⟩

/-! ## A whole text -/

/-- R63: a text is data characters and then as many of padding as the last group lacks bytes. -/
theorem encodeBytes_eq_data_append_pads (b : List Byte) : ∃ d : List Byte, (∀ c ∈ d, isDataChar c = true) ∧
    encodeBytes b = d ++ List.replicate ((3 - b.length % 3) % 3) padChar := by
  induction b using encodeBytes.induct with
  | case1 => exact ⟨[], nofun, rfl⟩
  | case2 b0 =>
    obtain ⟨v0, v1, h⟩ := encodeBytes_one b0
    exact ⟨[fwd v0, fwd v1], by simp [isDataChar_fwd], h⟩
  | case3 b0 b1 =>
    obtain ⟨v0, v1, v2, h⟩ := encodeBytes_two b0 b1
    exact ⟨[fwd v0, fwd v1, fwd v2], by simp [isDataChar_fwd], h⟩
  | case4 b0 b1 b2 rest ih =>
    obtain ⟨v0, v1, v2, v3, h⟩ := encodeBytes_three b0 b1 b2
    obtain ⟨d, hd, hrest⟩ := ih
    refine ⟨[fwd v0, fwd v1, fwd v2, fwd v3] ++ d, by simpa [isDataChar_fwd] using hd, ?_⟩
    have hlen : (b0 :: b1 :: b2 :: rest).length % 3 = rest.length % 3 := Nat.add_mod_right _ 3
    calc encodeBytes (b0 :: b1 :: b2 :: rest) = encodeBytes [b0, b1, b2] ++ encodeBytes rest := rfl
      _ = _ := by rw [h, hrest, hlen, List.append_assoc]

/-- Padding characters after data characters are counted one by one. -/
theorem count_data_append_pads {d : List Byte} (hd : ∀ c ∈ d, isDataChar c = true) (n : Nat) :
    (d ++ List.replicate n padChar).count padChar = n := by
  have hzero : d.count padChar = 0 := List.count_eq_zero.2 fun h => ne_padChar_of_isDataChar (hd _ h) rfl
  rw [List.count_append, hzero, List.count_replicate_self, Nat.zero_add]

/-- Padding characters after data characters are the trailing ones (R82). -/
theorem trailingPads_data_append_pads {d : List Byte} (hd : ∀ c ∈ d, isDataChar c = true) (n : Nat) :
    trailingPads (d ++ List.replicate n padChar) = n := by
  have hdata : d.reverse.takeWhile (· == padChar) = [] := by
    rw [List.takeWhile_eq_nil_iff]
    intro hpos
    have hfirst : isDataChar d.reverse[0] = true := hd _ (List.mem_reverse.1 (List.getElem_mem hpos))
    simpa using ne_padChar_of_isDataChar hfirst
  rw [trailingPads, List.reverse_append, List.reverse_replicate, List.takeWhile_append_of_pos (by simp), hdata,
    List.append_nil, List.length_replicate]

/-! ## One response -/

/-- R63: the text of any bytes stays in the alphabet. -/
theorem encodeBytes_inAlphabet {b : List Byte} {c : Byte} (hc : c ∈ encodeBytes b) : inAlphabet c := by
  obtain ⟨d, hd, h⟩ := encodeBytes_eq_data_append_pads b
  rw [h, List.mem_append] at hc
  exact hc.imp (hd c) List.eq_of_mem_replicate

/-- 0x00 is no character of the alphabet (R25, R63). -/
theorem ne_zero_of_inAlphabet {c : Byte} (h : inAlphabet c) : c ≠ 0x00#8 := by
  rintro rfl
  exact absurd h (by decide)

/-- R63: the lanes in which an ENC operation delivers padding. -/
theorem encodeBytes_lanes_pads {i : Instr} (hp : i.port = .enc) : (encodeBytes i.lanes).map (· == padChar) =
    if i.op = .encT2 then [false, false, false, true]
    else if i.op = .encT1 then [false, false, true, true]
    else if i.op = .encE0 then [] else [false, false, false, false] := by
  cases i with
  | encG3 b0 b1 b2 | encG3L b0 b1 b2 =>
    obtain ⟨v0, v1, v2, v3, h⟩ := encodeBytes_three b0 b1 b2
    simp [Instr.lanes, Instr.op, h]
  | encT2 b0 b1 =>
    obtain ⟨v0, v1, v2, h⟩ := encodeBytes_two b0 b1
    simp [Instr.lanes, Instr.op, h]
  | encT1 b0 =>
    obtain ⟨v0, v1, h⟩ := encodeBytes_one b0
    simp [Instr.lanes, Instr.op, h]
  | encE0 => rfl
  | decG4 | decL4 | decL3 | decL2 | decL1 | decE0 => cases hp

/-- An ENC operation that adds a response was accepted, and the response delivers the encoding of its bytes (R18, R54). -/
theorem exec_enc_response {i : Instr} {s t : State} {r : EncResponse} (hp : i.port = .enc) (ht : exec i s = .next t)
    (hr : t.encOut = s.encOut ++ [r]) : r.validLanes = encodeBytes i.lanes := by
  cases hs : s.encFault with
  | true =>
    obtain ⟨cnt, b0, b1, b2, -, he⟩ := exec_enc hp
    cases ((he s).trans (encStep_faulted hs)).symm.trans ht
    simp at hr
  | false =>
    obtain ⟨q, he, hlanes, -⟩ := exec_enc_delivers hp hs
    cases he.symm.trans ht
    obtain rfl : q = r := by simpa using hr
    exact hlanes

/-- Settles O56: a response delivers the encoding of its beat's bytes, and every text is data characters, then padding. -/
theorem encodingStaysInTheAlphabet : Obligations.EncodingStaysInTheAlphabet := by
  refine ⟨fun i s t r hp ht hr => ?_, fun b => ?_⟩
  · rw [exec_enc_response hp ht hr]
    have halphabet (c : Byte) (hc : c ∈ encodeBytes i.lanes) : inAlphabet c := encodeBytes_inAlphabet hc
    exact ⟨fun c hc => ⟨halphabet c hc, ne_zero_of_inAlphabet (halphabet c hc)⟩, encodeBytes_lanes_pads hp⟩
  · obtain ⟨d, hd, h⟩ := encodeBytes_eq_data_append_pads b
    rw [h]
    exact ⟨count_data_append_pads hd _, trailingPads_data_append_pads hd _⟩

end Sys2Proof.Proofs

/-! PROOFS, family 40_encoder.md. The round trip (R61, R79, R80): every group of an encoding decodes to the bytes it was made
of, so `decode` inverts `encode`, and the DEC port delivers what `decode` gives. -/

namespace Sys2Proof.Proofs

open Sys2Proof.Machine Sys2Proof.Laws

/-! ## A group of an encoding, decoded -/

/-- R67: the four symbols of three bytes, packed, are the three bytes. -/
theorem pack24_symbols (b0 b1 b2 : Byte) :
    pack24 (b0.extractLsb' 2 6) (b0.extractLsb' 0 2 ++ b1.extractLsb' 4 4) (b1.extractLsb' 0 4 ++ b2.extractLsb' 6 2)
      (b2.extractLsb' 0 6) = b0 ++ b1 ++ b2 := by
  simpa [split24_append] using pack24_split24 (b0 ++ b1 ++ b2)

/-- R68: the bytes of a group that is written as three. -/
theorem lanes24_decBytes (b0 b1 b2 : Byte) (nb : BitVec 2) : lanes24 (decBytes (b0 ++ b1 ++ b2) nb) =
    [laneOrZero (1#2 ≤ nb) b0, laneOrZero (2#2 ≤ nb) b1, laneOrZero (nb == 3#2) b2] := by
  simp [-Nat.reduceAdd, decBytes, lanes24_append, BitVec.extractLsb'_append_eq_ite]

/-- R68: the group that encodes three bytes decodes to them, last or not. -/
theorem decGroup_of_three (last : Bool) {b0 b1 b2 c0 c1 c2 c3 : Byte}
    (h : encodeBytes [b0, b1, b2] = [c0, c1, c2, c3]) :
    (decGroup last 4#3 c0 c1 c2 c3).ok = true ∧ groupBytes (decGroup last 4#3 c0 c1 c2 c3) = [b0, b1, b2] := by
  simp only [encodeBytes, encGroup_three, lanes32_append] at h
  cases h
  cases last <;>
    simp [decGroup, groupBytes, classify_fwd, pack24_symbols, pv, inLane, lengthError, lanes24_decBytes, laneOrZero]

/-- R68, R72: the padded group that encodes two bytes decodes to them. -/
theorem decGroup_of_two {b0 b1 c0 c1 c2 c3 : Byte} (h : encodeBytes [b0, b1] = [c0, c1, c2, c3]) :
    (decGroup true 4#3 c0 c1 c2 c3).ok = true ∧ groupBytes (decGroup true 4#3 c0 c1 c2 c3) = [b0, b1] := by
  have hpack : pack24 (b0.extractLsb' 2 6) (b0.extractLsb' 0 2 ++ b1.extractLsb' 4 4) (b1.extractLsb' 0 4 ++ 0#2) 0#6 =
      b0 ++ b1 ++ 0x00#8 := pack24_symbols b0 b1 0x00#8
  simp only [encodeBytes, encGroup_two, lanes32_append] at h
  cases h
  simp [decGroup, groupBytes, classify_fwd, hpack, pv, inLane, lengthError, lanes24_decBytes, laneOrZero]

/-- R68, R72: the padded group that encodes one byte decodes to it. -/
theorem decGroup_of_one {b0 c0 c1 c2 c3 : Byte} (h : encodeBytes [b0] = [c0, c1, c2, c3]) :
    (decGroup true 4#3 c0 c1 c2 c3).ok = true ∧ groupBytes (decGroup true 4#3 c0 c1 c2 c3) = [b0] := by
  have hpack : pack24 (b0.extractLsb' 2 6) (b0.extractLsb' 0 2 ++ 0#4) 0#6 0#6 = b0 ++ 0x00#8 ++ 0x00#8 :=
    pack24_symbols b0 0x00#8 0x00#8
  simp only [encodeBytes, encGroup_one, lanes32_append] at h
  cases h
  simp [decGroup, groupBytes, classify_fwd, hpack, pv, inLane, lengthError, lanes24_decBytes, laneOrZero]

/-! ## `decode` inverts `encode` (R80) -/

/-- The text of one or two bytes is one last group. -/
theorem decodeGroups_last {c0 c1 c2 c3 : Byte} {out : List Byte}
    (h : (decGroup true 4#3 c0 c1 c2 c3).ok = true ∧ groupBytes (decGroup true 4#3 c0 c1 c2 c3) = out) :
    decodeGroups [c0, c1, c2, c3] = some out := by
  obtain ⟨hok, rfl⟩ := h
  simp [decodeGroups, hok]

/-- R79: the group of three bytes before any rest, empty or not. -/
theorem decodeGroups_encodeBytes_three (b0 b1 b2 : Byte) (text : List Byte) :
    decodeGroups (encodeBytes [b0, b1, b2] ++ text) = (decodeGroups text).map ([b0, b1, b2] ++ ·) := by
  obtain ⟨v0, v1, v2, v3, h⟩ := encodeBytes_three b0 b1 b2
  rw [h]
  cases text with
  | nil => exact decodeGroups_last (decGroup_of_three true h)
  | cons c4 rest =>
    obtain ⟨hok, hbytes⟩ := decGroup_of_three false h
    simp [decodeGroups, hok, hbytes]

/-- R80: the loop of `decode` gives back what was encoded. -/
theorem decodeGroups_encodeBytes (b : List Byte) : decodeGroups (encodeBytes b) = some b := by
  induction b using encodeBytes.induct with
  | case1 => rfl
  | case2 b0 =>
    obtain ⟨v0, v1, h⟩ := encodeBytes_one b0
    rw [h]
    exact decodeGroups_last (decGroup_of_one h)
  | case3 b0 b1 =>
    obtain ⟨v0, v1, v2, h⟩ := encodeBytes_two b0 b1
    rw [h]
    exact decodeGroups_last (decGroup_of_two h)
  | case4 b0 b1 b2 rest ih =>
    have hgroup := decodeGroups_encodeBytes_three b0 b1 b2 (encodeBytes rest)
    rwa [ih] at hgroup

/-! ## The DEC port on a text that decodes (R79) -/

/-- R112: the bytes of one response and of those after it. -/
theorem bytesOf_cons (r : DecResponse) (rs : List DecResponse) : bytesOf (r :: rs) = r.validLanes ++ bytesOf rs := rfl

/-- R70: a legal beat whose group is good, in a message that has not failed, delivers the group's bytes. -/
theorem decStep_good_group {last : Bool} {cnt : BitVec 3} {c0 c1 c2 c3 : Byte} {s : State} (hs : s.decFault = false)
    (herr : s.decErr = false) (hframe : decFraming last cnt s.decOpen = none)
    (hok : (decGroup last cnt c0 c1 c2 c3).ok = true) :
    ∃ r n, decStep last cnt c0 c1 c2 c3 s = .next ((s.setDecMessage n false (!last)).giveDec r) ∧
      r.validLanes = groupBytes (decGroup last cnt c0 c1 c2 c3) ∧ (r.fail = false ∧ r.fault = false) ∧
      (last = true → n = 0) := by
  have hgood : (s.decErr || !(decGroup last cnt c0 c1 c2 c3).ok) = false := by simp [herr, hok]
  refine ⟨decResponse last cnt c0 c1 c2 c3 s, if last then 0 else (decResponse last cnt c0 c1 c2 c3 s).total,
    ?_, ?_, ⟨hgood, rfl⟩, fun hlast => if_pos hlast⟩
  · have hfail : (decResponse last cnt c0 c1 c2 c3 s).fail = false := hgood
    rw [decStep_legal hs hframe, decAfter, decErrAfter, hfail, Bool.and_false]
    rfl
  · simp [decResponse, DecResponse.validLanes, groupBytes, hgood]

/-- R79: on a port whose message has not failed, a text that decodes is delivered, and the registers are clean after it. -/
theorem runBeats_decMsg {text out : List Byte} {s : State} (htext : decodeGroups text = some out)
    (hs : s.decFault = false) (herr : s.decErr = false) (hopen : text = [] → s.decOpen = false) :
    ∃ rs, runBeats (decMsg text) s =
        .next { s with decOlen := 0, decOpen := false, decErr := false, decOut := s.decOut ++ rs } ∧
      bytesOf rs = out ∧ ∀ r ∈ rs, r.fail = false ∧ r.fault = false := by
  induction text using decMsg.induct generalizing s out with
  | case1 =>
    cases htext
    have hframe : decFraming true 0#3 s.decOpen = none := by rw [hopen rfl]; rfl
    obtain ⟨r, n, he, hlanes, hr, hn⟩ := decStep_good_group (c0 := 0) (c1 := 0) (c2 := 0) (c3 := 0) hs herr hframe rfl
    obtain rfl := hn rfl
    exact ⟨[r], runBeats_cons (i := .decE0) he [], by rw [bytesOf_cons, hlanes]; rfl, List.forall_mem_singleton.2 hr⟩
  | case2 | case3 | case4 => cases htext
  | case5 c0 c1 c2 c3 =>
    obtain ⟨hok, rfl⟩ : _ ∧ groupBytes (decGroup true 4#3 c0 c1 c2 c3) = out := by simpa [decodeGroups] using htext
    obtain ⟨r, n, he, hlanes, hr, hn⟩ := decStep_good_group hs herr rfl hok
    obtain rfl := hn rfl
    exact ⟨[r], runBeats_cons (i := .decL4 c0 c1 c2 c3) he [], by rw [bytesOf_cons, hlanes]; exact List.append_nil _,
      List.forall_mem_singleton.2 hr⟩
  | case6 c0 c1 c2 c3 c4 rest ih =>
    obtain ⟨hok, tail, htail, rfl⟩ : _ ∧ ∃ tail, decodeGroups (c4 :: rest) = some tail ∧
        groupBytes (decGroup false 4#3 c0 c1 c2 c3) ++ tail = out := by simpa [decodeGroups] using htext
    obtain ⟨r, n, he, hlanes, hr, -⟩ := decStep_good_group hs herr rfl hok
    obtain ⟨rs, hrun, hbytes, hall⟩ := ih (s := (s.setDecMessage n false true).giveDec r) htail hs rfl nofun
    refine ⟨r :: rs, ?_, by rw [bytesOf_cons, hlanes, hbytes], List.forall_mem_cons.2 ⟨hr, hall⟩⟩
    rw [decMsg, runBeats_cons (i := .decG4 c0 c1 c2 c3) he]
    simpa [State.giveDec, State.setDecMessage] using hrun

/-- Settles O54: the ENC port delivers the encoding and leaves the DEC port clean, the encoding decodes to the message, and
the DEC port delivers what a text decodes to. -/
theorem blockRoundTrip : Obligations.BlockRoundTrip := by
  rintro b s henc ⟨hs, hopen, -, herr⟩
  obtain ⟨rs, r, hrun, htext, -⟩ := encMessageDeliversTheEncoding b s henc _ (.inl rfl)
  obtain ⟨ds, hdec, hbytes, hall⟩ := runBeats_decMsg (s := { s with encOut := s.encOut ++ (rs ++ [r]) })
    (decodeGroups_encodeBytes b) hs herr fun _ => hopen
  have hdelivered : textOf ((s.encOut ++ (rs ++ [r])).drop s.encOut.length) = encodeBytes b := by
    rw [List.drop_left, htext]
  rw [← hdelivered] at hdec
  refine ⟨_, _, hrun, hdec, ?_⟩
  rw [List.drop_left]
  exact ⟨hbytes, hall⟩

end Sys2Proof.Proofs

/-! PROOFS, family 41_decoder.md. One group of characters (R68, R69, R93, R97): the errors that can be found in it, and
the bytes of a group that has none. -/

namespace Sys2Proof.Proofs

open Sys2Proof.Machine Sys2Proof.Laws

/-! ## The errors of a group -/

/-- R43: the lanes' masked flags, or-ed, are a search through the valid lanes. -/
theorem inLane_or_eq_any (flag : Byte → Bool) (cnt : BitVec 3) (c0 c1 c2 c3 : Byte) :
    (inLane 0#3 cnt (flag c0) || inLane 1#3 cnt (flag c1) || inLane 2#3 cnt (flag c2) || inLane 3#3 cnt (flag c3)) =
      ([c0, c1, c2, c3].take cnt.toNat).any flag := by
  have hflags : ([c0, c1, c2, c3].take cnt.toNat).any flag =
      ([flag c0, flag c1, flag c2, flag c3].take cnt.toNat).any id := by
    rw [← Function.id_comp flag, ← List.any_map, List.map_take]
    rfl
  rw [hflags]
  generalize flag c0 = x0, flag c1 = x1, flag c2 = x2, flag c3 = x3
  clear hflags
  revert cnt x0 x1 x2 x3
  decide

/-- R84: the length error does not look at the padding. -/
@[simp] theorem pv_lenErr (last : Bool) (cnt : BitVec 3) (p0 p1 p2 p3 : Bool) :
    (pv last cnt p0 p1 p2 p3).lenErr = lengthError last cnt := by
  revert last cnt p0 p1 p2 p3
  decide

/-- R84: in a full last group padding is an error unless it is a suffix of at most two characters. -/
@[simp] theorem pv_padErr_full_last (p0 p1 p2 p3 : Bool) :
    (pv true 4#3 p0 p1 p2 p3).padErr = (p0 || p1 || (p2 && !p3)) := by
  revert p0 p1 p2 p3
  decide

/-- R84: in a group that is not last every padding character is an error. -/
@[simp] theorem pv_padErr_continuing (cnt : BitVec 3) (p0 p1 p2 p3 : Bool) : (pv false cnt p0 p1 p2 p3).padErr =
    (inLane 0#3 cnt p0 || inLane 1#3 cnt p1 || inLane 2#3 cnt p2 || inLane 3#3 cnt p3) := rfl

/-- R68: the cause of a group's failure, by the search for an invalid character in its valid lanes. -/
theorem decGroup_cause (last : Bool) (cnt : BitVec 3) (c0 c1 c2 c3 : Byte) : (decGroup last cnt c0 c1 c2 c3).cause =
    decCause (([c0, c1, c2, c3].take cnt.toNat).any fun c => (classify c).bad) (lengthError last cnt)
      (pv last cnt (c0 == padChar) (c1 == padChar) (c2 == padChar) (c3 == padChar)).padErr := by
  rw [← inLane_or_eq_any, ← pv_lenErr last cnt (c0 == padChar) (c1 == padChar) (c2 == padChar) (c3 == padChar)]
  rfl

/-- R68: a group is good when no error was found in it. -/
theorem decGroup_ok_iff (last : Bool) (cnt : BitVec 3) (c0 c1 c2 c3 : Byte) :
    (decGroup last cnt c0 c1 c2 c3).ok = true ↔ (decGroup last cnt c0 c1 c2 c3).cause = .none := by
  have hcause (inv len pad : Bool) : !(inv || pad || len) ↔ decCause inv len pad = .none := by
    revert inv len pad
    decide
  exact hcause ..

/-- R68: a wrong length makes a group bad whatever its characters are. -/
theorem decGroup_ok_of_lengthError {last : Bool} {cnt : BitVec 3} (h : lengthError last cnt = true)
    (c0 c1 c2 c3 : Byte) : (decGroup last cnt c0 c1 c2 c3).ok = false := by
  rw [Bool.eq_false_iff, Ne, decGroup_ok_iff, decGroup_cause, h, decCause]
  split <;> nofun

/-- R68, R73 to R75: the cause in a group of a wrong length. -/
theorem decGroup_cause_of_lengthError {last : Bool} {cnt : BitVec 3} (h : lengthError last cnt = true)
    (c0 c1 c2 c3 : Byte) : (decGroup last cnt c0 c1 c2 c3).cause =
      if ([c0, c1, c2, c3].take cnt.toNat).any fun c => (classify c).bad then .invalidCharacter else .badLength := by
  rw [decGroup_cause, h]
  rfl

/-- R66, R68: a search for an invalid character, in the words of the rule. -/
theorem any_bad_iff (cs : List Byte) :
    (cs.any fun c => (classify c).bad) = true ↔ ∃ c ∈ cs, isDataChar c = false ∧ c ≠ padChar := by
  simp [bad_eq]

/-- R84: which groups have a wrong length. -/
theorem lengthError_iff (last : Bool) (cnt : BitVec 3) :
    lengthError last cnt = true ↔ last = true ∧ (cnt = 1#3 ∨ cnt = 2#3 ∨ cnt = 3#3) := by
  simp [lengthError, or_assoc]

/-- R93: the last of the causes is the padding error. -/
theorem decCause_eq_malformedPadding (pad : Bool) : decCause false false pad = .malformedPadding ↔ pad = true := by
  cases pad <;> simp [decCause]

/-- Settles O17: the causes are tried in order, and each of the three errors is a search through the valid lanes or a
condition on the fields. -/
theorem decGroupNamesTheFirstFailure : Obligations.DecGroupNamesTheFirstFailure := by
  intro last cnt c0 c1 c2 c3 _ valid g invalid short
  have hcause : g.cause = _ := decGroup_cause last cnt c0 c1 c2 c3
  have hinvalid : invalid ↔ (valid.any fun c => (classify c).bad) = true := (any_bad_iff valid).symm
  have hshort : short ↔ lengthError last cnt = true := (lengthError_iff last cnt).symm
  refine ⟨fun hi => ?_, fun hi hs => ?_, fun hi hs => ?_, decGroup_ok_iff last cnt c0 c1 c2 c3⟩
  · rw [hcause, hinvalid.1 hi]
    rfl
  · rw [hcause, Bool.eq_false_iff.2 (hi ∘ hinvalid.2), hshort.1 hs]
    rfl
  · rw [hcause, Bool.eq_false_iff.2 (hi ∘ hinvalid.2), Bool.eq_false_iff.2 (hs ∘ hshort.2),
      decCause_eq_malformedPadding]
    refine ⟨?_, ?_⟩
    · rintro rfl
      rw [pv_padErr_continuing, inLane_or_eq_any (· == padChar)]
      simp [valid, padChar]
    · rintro rfl rfl
      simp [padChar, or_assoc]

/-! ## The bytes of a group -/

/-- R68: three valid bytes are the whole packed group. -/
theorem decBytes_three (w : BitVec 24) : decBytes w 3#2 = w := by
  simp only [decBytes, laneOrZero, BitVec.reduceLE, decide_true, if_true, BEq.rfl,
    BitVec.extractLsb'_append_extractLsb'_eq_extractLsb', BitVec.extractLsb'_eq_self]

/-- R69: with one padding character the last two bits of the third symbol are discarded. -/
theorem decBytes_pack24_two (v0 v1 v2 v3 : Symbol) :
    decBytes (pack24 v0 v1 v2 v3) 2#2 = v0 ++ v1 ++ v2.extractLsb' 2 4 ++ 0x00#8 := by
  have hkept : (pack24 v0 v1 v2 v3).extractLsb' 8 16 = v0 ++ v1 ++ v2.extractLsb' 2 4 := by
    simp [-Nat.reduceAdd, pack24, BitVec.extractLsb'_append_eq_ite]
  rw [← hkept, decBytes]
  exact congrArg (· ++ 0x00#8) (BitVec.extractLsb'_append_extractLsb'_eq_extractLsb' rfl)

/-- R69: with two padding characters the last four bits of the second symbol are discarded. -/
theorem decBytes_pack24_one (v0 v1 v2 v3 : Symbol) :
    decBytes (pack24 v0 v1 v2 v3) 1#2 = v0 ++ v1.extractLsb' 4 2 ++ 0x0000#16 := by
  have hkept : (pack24 v0 v1 v2 v3).extractLsb' 16 8 = v0 ++ v1.extractLsb' 4 2 := by
    simp [-Nat.reduceAdd, pack24, BitVec.extractLsb'_append_eq_ite]
  rw [← hkept, decBytes]
  exact BitVec.append_assoc (x₁ := (pack24 v0 v1 v2 v3).extractLsb' 16 8) (x₂ := 0#8) (x₃ := 0#8)

/-- R71, R72: a full group of data characters gives three bytes. -/
theorem decGroup_of_data (last : Bool) {c0 c1 c2 c3 : Byte} (h0 : isDataChar c0 = true) (h1 : isDataChar c1 = true)
    (h2 : isDataChar c2 = true) (h3 : isDataChar c3 = true) : decGroup last 4#3 c0 c1 c2 c3 =
      { ok := true, cause := .none, nb := 3#2,
        q := RevEntry.val (rev c0) ++ RevEntry.val (rev c1) ++ RevEntry.val (rev c2) ++ RevEntry.val (rev c3) } := by
  cases last <;>
    simp [decGroup, classify_of_isDataChar, h0, h1, h2, h3, pv, inLane, lengthError, decCause, decBytes_three, pack24]

/-- R69, R72: a last group with one padding character gives two bytes. -/
theorem decGroup_of_one_pad {c0 c1 c2 : Byte} (h0 : isDataChar c0 = true) (h1 : isDataChar c1 = true)
    (h2 : isDataChar c2 = true) : decGroup true 4#3 c0 c1 c2 padChar =
      { ok := true, cause := .none, nb := 2#2,
        q := RevEntry.val (rev c0) ++ RevEntry.val (rev c1) ++ (RevEntry.val (rev c2)).extractLsb' 2 4 ++ 0x00#8 } := by
  simp [decGroup, classify_of_isDataChar, h0, h1, h2, pv, inLane, lengthError, decCause, decBytes_pack24_two]

/-- R69, R72: a last group with two padding characters gives one byte. -/
theorem decGroup_of_two_pads {c0 c1 : Byte} (h0 : isDataChar c0 = true) (h1 : isDataChar c1 = true) :
    decGroup true 4#3 c0 c1 padChar padChar =
      { ok := true, cause := .none, nb := 1#2,
        q := RevEntry.val (rev c0) ++ (RevEntry.val (rev c1)).extractLsb' 4 2 ++ 0x0000#16 } := by
  simp [decGroup, classify_of_isDataChar, h0, h1, pv, inLane, lengthError, decCause, decBytes_pack24_one]

end Sys2Proof.Proofs

/-! PROOFS, family 41_decoder.md. The six DEC operations and the illegal DEC beat, one beat at a time (R70 to R77, R98,
R99): what a legal beat does is told by the verdict on its group. -/

namespace Sys2Proof.Proofs

open Sys2Proof.Machine Sys2Proof.Laws

/-! ## A row of the operation map (R45) -/

/-- R45: the row's mask keeps the selecting bits. -/
theorem decSelect_of_masked {w : DecWord} {k : BitVec 4} (h : w &&& 0xF00000000#36 = k ++ 0#8 ++ 0#8 ++ 0#8 ++ 0#8) :
    decSelect w = k := by
  have hk : decSelect w &&& 0b1111#4 = decSelect (w &&& 0xF00000000#36) := by
    rw [decSelect, decSelect, BitVec.extractLsb'_and]
    rfl
  rw [h, decSelect_append] at hk
  exact BitVec.and_allOnes.symm.trans hk

/-! ## A legal beat -/

section LegalBeat

variable {last : Bool} {cnt : BitVec 3} {c0 c1 c2 c3 : Byte} {s : State}

/-- R70, R71, R72: a good group in a message that has not failed delivers its bytes. -/
theorem decStep_of_good (hs : s.decFault = false) (hf : decFraming last cnt s.decOpen = none) (herr : s.decErr = false)
    {nb : BitVec 2} {q : BitVec 24}
    (hg : decGroup last cnt c0 c1 c2 c3 = { ok := true, cause := .none, nb := nb, q := q }) :
    decStep last cnt c0 c1 c2 c3 s = .next { s with
      decOlen := if last then 0 else (s.decOlen + nb.toNat) % 2 ^ s.cfg.lenW
      decErr := false
      decOpen := !last
      decOut := s.decOut ++ [{
        q := q
        qcnt := nb
        done := last
        fail := false
        total := (s.decOlen + nb.toNat) % 2 ^ s.cfg.lenW
        fault := false }] } := by
  rw [decStep_legal hs hf]
  simp [decAfter, decResponse, hg, herr, decErrAfter, decOpenAfter, countUp, State.giveDec, State.setDecMessage]

/-- R70, R98, R99: a bad group, or any group of a message that has failed, delivers nothing and fails the message. -/
theorem decStep_of_failed (hs : s.decFault = false) (hf : decFraming last cnt s.decOpen = none)
    (hlt : s.decOlen < 2 ^ s.cfg.lenW) (hfail : s.decErr = true ∨ (decGroup last cnt c0 c1 c2 c3).ok = false) :
    decStep last cnt c0 c1 c2 c3 s = .next { s with
      decOlen := if last then 0 else s.decOlen
      decErr := !last
      decOpen := !last
      decOut := s.decOut ++
        [{ q := 0, qcnt := 0, done := last, fail := true, total := s.decOlen, fault := false }] } := by
  have herr : (s.decErr || !(decGroup last cnt c0 c1 c2 c3).ok) = true := by simpa using hfail
  have hcount : countUp s.cfg s.decOlen 0 = s.decOlen := countUp_zero hlt
  rw [decStep_legal hs hf]
  simp [decAfter, decResponse, herr, hcount, decErrAfter, decOpenAfter, State.giveDec, State.setDecMessage]

/-- R73 to R75: a last beat of a wrong length fails the message and ends it. -/
theorem decStep_of_lengthError (hs : s.decFault = false) (hf : decFraming true cnt s.decOpen = none)
    (hlt : s.decOlen < 2 ^ s.cfg.lenW) (hlen : lengthError true cnt = true) :
    decStep true cnt c0 c1 c2 c3 s = .next { s with
      decOlen := 0
      decErr := false
      decOpen := false
      decOut := s.decOut ++
        [{ q := 0, qcnt := 0, done := true, fail := true, total := s.decOlen, fault := false }] } :=
  decStep_of_failed hs hf hlt (.inr (decGroup_ok_of_lengthError hlen c0 c1 c2 c3))

/-- R70: of a group, the port's step reads the verdict and, when it is good, the bytes. -/
theorem decStep_congr {c0' c1' c2' c3' : Byte}
    (hok : (decGroup last cnt c0 c1 c2 c3).ok = (decGroup last cnt c0' c1' c2' c3').ok)
    (hbytes : (decGroup last cnt c0 c1 c2 c3).ok = true →
      decGroup last cnt c0 c1 c2 c3 = decGroup last cnt c0' c1' c2' c3') :
    decStep last cnt c0 c1 c2 c3 s = decStep last cnt c0' c1' c2' c3' s := by
  have hresponse : decResponse last cnt c0 c1 c2 c3 s = decResponse last cnt c0' c1' c2' c3' s := by
    cases hgood : (decGroup last cnt c0 c1 c2 c3).ok with
    | true => simp only [decResponse, hbytes hgood]
    | false => simp [decResponse, ← hok, hgood]
  simp only [decStep, hresponse]

end LegalBeat

/-! ## The six operations -/

/-- Settles O9: the row selects `DEC.G4`; its group is good when its characters are four data characters, and the step
follows the verdict. -/
theorem decG4ContinuesTheMessage : Obligations.DecG4ContinuesTheMessage := by
  refine ⟨fun w hw => ?_, fun c0 c1 c2 c3 s hs hlt => ?_, fun c0 c1 c2 c3 => ?_⟩
  · simp [decodeDec, decSelect_of_masked (k := 0b0100#4) hw, decC0, decC1, decC2, decC3]
  · split_ifs with hgood
    · obtain ⟨h0, h1, h2, h3, herr⟩ := hgood
      rw [show exec (.decG4 c0 c1 c2 c3) s = _ from
        decStep_of_good (cnt := 4#3) hs rfl herr (decGroup_of_data false h0 h1 h2 h3)]
      simp [herr]
    · refine decStep_of_failed (last := false) (cnt := 4#3) hs rfl hlt (or_iff_not_imp_left.2 fun herr => ?_)
      rw [decGroup_ok_continuing]
      simp_all
  · rw [decGroup_cause, pv_padErr_continuing, inLane_or_eq_any (· == padChar)]
    simp [decCause, lengthError, padChar]

/-- Settles O10: the row selects `DEC.L4`; the good patterns are the three of `decGroup_ok_last`, each with its
bytes. -/
theorem decL4EndsTheMessage : Obligations.DecL4EndsTheMessage := by
  refine ⟨fun w hw => ?_, fun c0 c1 c2 c3 s hs hlt => ?_, fun c0 c1 c2 c3 => ?_⟩
  · simp [decodeDec, decSelect_of_masked (k := 0b1100#4) hw, decC0, decC1, decC2, decC3]
  · intro v0 v1 v2 v3 good
    split_ifs with hdata hpad hpads
    · obtain ⟨herr, h0, h1, h2, h3⟩ := hdata
      exact decStep_of_good (cnt := 4#3) hs rfl herr (decGroup_of_data true h0 h1 h2 h3)
    · obtain ⟨herr, h0, h1, h2, rfl⟩ := hpad
      exact decStep_of_good (cnt := 4#3) hs rfl herr (decGroup_of_one_pad h0 h1 h2)
    · obtain ⟨herr, h0, h1, rfl, rfl⟩ := hpads
      exact decStep_of_good (cnt := 4#3) hs rfl herr (decGroup_of_two_pads h0 h1)
    · refine decStep_of_failed (last := true) (cnt := 4#3) hs rfl hlt (or_iff_not_imp_left.2 fun herr => ?_)
      rw [decGroup_ok_last]
      simp_all [padChar]
  · rw [decGroup_cause, pv_padErr_full_last]
    simp [decCause, lengthError, padChar, or_assoc]

/-- Settles O11: the row selects `DEC.L3`, whose length is wrong. -/
theorem decL3AlwaysFails : Obligations.DecL3AlwaysFails := by
  refine ⟨fun w hw => ?_, fun c0 c1 c2 s hs hlt => decStep_of_lengthError (cnt := 3#3) hs rfl hlt rfl,
    fun c0 c1 c2 c3 => ?_⟩
  · simp [decodeDec, decSelect_of_masked (k := 0b1011#4) hw, decC0, decC1, decC2]
  · simp [decGroup_cause_of_lengthError (last := true) (cnt := 3#3) rfl]

/-- Settles O12: the row selects `DEC.L2`, whose length is wrong. -/
theorem decL2AlwaysFails : Obligations.DecL2AlwaysFails := by
  refine ⟨fun w hw => ?_, fun c0 c1 s hs hlt => decStep_of_lengthError (cnt := 2#3) hs rfl hlt rfl,
    fun c0 c1 c2 c3 => ?_⟩
  · simp [decodeDec, decSelect_of_masked (k := 0b1010#4) hw, decC0, decC1]
  · simp [decGroup_cause_of_lengthError (last := true) (cnt := 2#3) rfl]

/-- Settles O13: the row selects `DEC.L1`, whose length is wrong. -/
theorem decL1AlwaysFails : Obligations.DecL1AlwaysFails := by
  refine ⟨fun w hw => ?_, fun c0 s hs hlt => decStep_of_lengthError (cnt := 1#3) hs rfl hlt rfl, fun c0 c1 c2 c3 => ?_⟩
  · simp [decodeDec, decSelect_of_masked (k := 0b1001#4) hw, decC0]
  · simp [decGroup_cause_of_lengthError (last := true) (cnt := 1#3) rfl]

/-- Settles O14: the row selects `DEC.E0`; its group of no character is good, and an open message makes it illegal. -/
theorem decE0IsTheEmptyMessage : Obligations.DecE0IsTheEmptyMessage := by
  refine ⟨fun w hw => ?_, fun s hs hopen hclean => ?_, fun s hs hopen => ?_⟩
  · simp [decodeDec, decSelect_of_masked (k := 0b1000#4) hw]
  · obtain ⟨holen, herr⟩ := hclean hopen
    have hframe : decFraming true 0#3 s.decOpen = none := by rw [hopen]; rfl
    rw [show exec .decE0 s = _ from decStep_of_good hs hframe herr (nb := 0#2) (q := 0#24) rfl]
    simp [hopen, holen, herr]
  · have hframe : decFraming true 0#3 s.decOpen = some .decEmptyClose := by rw [hopen]; rfl
    exact ⟨hframe, decStep_illegal hs hframe⟩

/-! ## Every operation and every beat -/

/-- Settles O19: two last groups whose discarded bits alone differ have the same verdict and the same bytes; `Zg..` and
`Zh..` are such texts. -/
theorem discardedBitsAreNotChecked : Obligations.DiscardedBitsAreNotChecked := by
  refine ⟨fun c0 c1 c2 c2' s h2 h2' hkept => ?_, fun c0 c1 c1' s h1 h1' hkept => ?_,
    [0x5A, 0x68, 0x2E, 0x2E], [0x66], by decide⟩
  · refine decStep_congr (last := true) (cnt := 4#3) (c3 := padChar) (c3' := padChar) ?_ fun hok => ?_
    · simp [decGroup_ok_last, h2, h2']
    · obtain ⟨h0, h1⟩ : isDataChar c0 = true ∧ isDataChar c1 = true := by
        simp_all [decGroup_ok_last]
      rw [decGroup_of_one_pad h0 h1 h2, decGroup_of_one_pad h0 h1 h2', hkept]
  · refine decStep_congr (last := true) (cnt := 4#3) (c2 := padChar) (c2' := padChar) (c3 := padChar) (c3' := padChar)
      ?_ fun hok => ?_
    · simp [decGroup_ok_last, h1, h1']
    · have h0 : isDataChar c0 = true := by simp_all [decGroup_ok_last]
      rw [decGroup_of_two_pads h0 h1, decGroup_of_two_pads h0 h1', hkept]

/-- Settles O34: every DEC operation but `DEC.E0` is legal, and `DEC_ERR` fails a legal beat whatever its group is. -/
theorem failedMessageStaysFailed : Obligations.FailedMessageStaysFailed := by
  intro i s hp hne hs herr hlt
  obtain ⟨cnt, c0, c1, c2, c3, hf, -, he⟩ := exec_dec hp
  rw [he]
  exact decStep_of_failed hs (hf _ fun hE0 => absurd hE0 hne) hlt (.inl herr)

/-- Settles O37: a DEC operation does nothing on a faulted port, `DEC.E0` takes the Fault of an open message, and every
other one in service writes the per-message registers and gives a response. -/
theorem decBeatFrame : Obligations.DecBeatFrame := by
  intro i s t hp ht
  obtain ⟨cnt, c0, c1, c2, c3, hf, -, he⟩ := exec_dec hp
  rw [he] at ht
  obtain ⟨hF, h⟩ | ⟨-, code, hcode, h⟩ | ⟨hF, -, h⟩ := decStep_cases i.isLast cnt c0 c1 c2 c3 s <;>
    cases h.symm.trans ht
  · exact ⟨⟨rfl, rfl, rfl⟩, rfl, rfl, fun _ => rfl, fun _ => ⟨rfl, rfl, rfl⟩, by simp [hF], .inl rfl⟩
  · have hE0 : i = .decE0 := by
      by_contra hne
      simp [hf _ fun hE0 => absurd hE0 hne] at hcode
    rw [raiseFault_dec code s (decFraming_port hcode)]
    exact ⟨⟨rfl, rfl, rfl⟩, rfl, rfl, fun hne => absurd hE0 hne, fun _ => ⟨rfl, rfl, rfl⟩, nofun, .inr ⟨_, rfl⟩⟩
  · refine ⟨⟨rfl, rfl, rfl⟩, rfl, rfl, fun _ => rfl, fun hne => absurd rfl hne, fun hlast _ => ?_, .inr ⟨_, rfl⟩⟩
    exact ⟨if_pos hlast, by simp [decAfter, decOpenAfter, hlast], by simp [decAfter, decErrAfter, hlast]⟩

/-- Settles O16: presenting a beat is the port's step on the fields of its word. -/
theorem decPortRunsDecStep : Obligations.DecPortRunsDecStep := by
  intro w s last cnt g err qcnt olen
  have hframe := decFraming_ne_none last s.decOpen cnt
  rw [acceptDec_eq_decStep]
  obtain ⟨hF, he⟩ | ⟨hF, code, hf, he⟩ | ⟨hF, hf, he⟩ :=
    decStep_cases (decLast w) (decCnt w) (decC0 w) (decC1 w) (decC2 w) (decC3 w) s
  · rw [he, if_pos hF]
  · rw [he, if_neg (by simp [hF]), if_pos (hframe.1 (Option.ne_none_iff_exists'.2 ⟨code, hf⟩)),
      raiseFault_dec code s (decFraming_port hf)]
    rfl
  · have herr : decErrAfter last err = if last = true then false else err := by
      cases last <;> rfl
    have hopen : decOpenAfter last = if last = true then false else true := by
      cases last <;> rfl
    rw [he, if_neg (by simp [hF]), if_neg fun h => hframe.2 h hf, ← herr, ← hopen]
    rfl

/-! ## The illegal beat -/

/-- R77, R97: the code of an illegal beat. -/
theorem decFraming_of_illegal : ∀ (last isOpen : Bool) (cnt : BitVec 3),
    (last = false ∧ cnt.toNat ≠ 4 ∨ 4 < cnt.toNat ∨ last = true ∧ cnt.toNat = 0 ∧ isOpen = true) →
    decFraming last cnt isOpen = some
      (if 4 < cnt.toNat then .decCntRange else if last = false then .decPartialNotLast else .decEmptyClose) := by decide

/-- R46, R77: a beat that the framing check refuses with no message open is no operation. -/
theorem decodeDec_of_framing {w : DecWord} {code : FaultCode}
    (h : decFraming (decLast w) (decCnt w) false = some code) : decodeDec w = .error code := by
  rw [decLast_eq_decSelect, decCnt_eq_decSelect] at h
  rw [decodeDec, decCnt_eq_decSelect]
  split_ifs with h4 hC hB hA h9 h8 hr
  case pos | pos | pos | pos | pos | pos =>
    rw [‹decSelect w = _›] at h
    cases h
  all_goals
    rw [decFraming_decSelect false _ h4 hC hB hA h9 h8] at h
    simp only [hr, if_true, if_false] at h
    cases h
    rfl

/-- Settles O15: the framing check names the code, a beat that it refuses with no message open decodes to no operation,
and a faulted port's step does nothing. -/
theorem illegalDecBeatFaults : Obligations.IllegalDecBeatFaults := by
  intro w s hs last cnt hillegal
  have hframe (isOpen : Bool) (h : last = false ∧ cnt ≠ 4 ∨ 4 < cnt ∨ last = true ∧ cnt = 0 ∧ isOpen = true) :
      decFraming (decLast w) (decCnt w) isOpen = some
        (if 4 < cnt then .decCntRange else if last = false then .decPartialNotLast else .decEmptyClose) :=
    decFraming_of_illegal last isOpen (decCnt w) h
  have hcode := hframe s.decOpen hillegal
  refine ⟨fun hcnt => ?_, fun ⟨hlast, hcnt⟩ => ?_, fun ⟨hlast, hcnt⟩ => ?_, hcode, _, ?_, rfl,
    fun rst => Bool.and_false _, fun w' => ?_⟩
  · have hf := hframe false (.inr (.inl hcnt))
    rw [if_pos hcnt] at hf
    exact decodeDec_of_framing hf
  · have hf := hframe false (.inl ⟨hlast, hcnt.ne⟩)
    rw [if_neg hcnt.le.not_gt, if_pos hlast] at hf
    exact decodeDec_of_framing hf
  · have hcnt : decCnt w = 0#3 := BitVec.eq_of_toNat_eq hcnt
    have hsel : decSelect w = 0b1000#4 := by
      rw [decSelect_eq, hcnt, show decLast w = true from hlast]
      rfl
    simp [decodeDec, hsel]
  · rw [acceptDec_eq_decStep, decStep_illegal hs hcode, raiseFault_dec _ s (decFraming_port hcode)]
    rfl
  · rw [acceptDec_eq_decStep, decStep_faulted rfl]

end Sys2Proof.Proofs

/-! PROOFS, family 41_decoder.md. `DEC_OLEN` over any run of beats (R78): it counts the open message's groups of
three. -/

namespace Sys2Proof.Proofs

open Sys2Proof.Machine Sys2Proof.Laws

/-! ## The responses of the open message (R112) -/

/-- A response that ends the message leaves none open. -/
theorem openResponses_concat_done {r : DecResponse} (h : r.done = true) (rs : List DecResponse) :
    openResponses (rs ++ [r]) = [] := by
  simp [openResponses, h]

/-- A response that does not end the message is one more of it. -/
theorem openResponses_concat {r : DecResponse} (h : r.done = false) (rs : List DecResponse) :
    openResponses (rs ++ [r]) = openResponses rs ++ [r] := by
  simp [openResponses, h]

/-- The groups of the open message that produced three bytes. -/
def openGroups (rs : List DecResponse) : Nat := ((openResponses rs).filter (fun r => r.qcnt == 3#2)).length

theorem openGroups_concat_done {r : DecResponse} (h : r.done = true) (rs : List DecResponse) :
    openGroups (rs ++ [r]) = 0 := by
  simp [openGroups, openResponses_concat_done h]

theorem openGroups_concat {r : DecResponse} (h : r.done = false) (rs : List DecResponse) :
    openGroups (rs ++ [r]) = openGroups rs + if r.qcnt = 3#2 then 1 else 0 := by
  by_cases hq : r.qcnt = 3#2 <;> simp [openGroups, openResponses_concat h, hq]

/-! ## The invariant -/

/-- R78 of a state that has given the responses `rs` since its DEC port was clean. -/
structure CountsGroups (rs : List DecResponse) (s : State) : Prop where
  closed : s.ClosedIsClean
  count : s.decOlen = 3 * openGroups rs % 2 ^ s.cfg.lenW

/-- R78: a clean port, before its first response. -/
theorem countsGroups_of_clean {s : State} (h : DecClean s) : CountsGroups [] s := by
  obtain ⟨-, -, holen, herr⟩ := h
  exact ⟨fun _ => ⟨holen, herr⟩, holen.trans (Nat.zero_mod _).symm⟩

/-- R45, R77: a legal beat that is not last is a full group. -/
theorem cnt_of_continuing {cnt : BitVec 3} {isOpen : Bool} (hf : decFraming false cnt isOpen = none) : cnt = 4#3 := by
  by_contra hne
  exact (decFraming_ne_none false isOpen cnt).2 (.inl ⟨rfl, hne⟩) hf

/-- R70, R71: a legal beat that is not last produces three bytes or none. -/
theorem decResponse_qcnt_continuing (c0 c1 c2 c3 : Byte) (s : State) :
    (decResponse false 4#3 c0 c1 c2 c3 s).qcnt = 3#2 ∨ (decResponse false 4#3 c0 c1 c2 c3 s).qcnt = 0#2 := by
  have hnb : (decGroup false 4#3 c0 c1 c2 c3).nb = 3#2 := by simp [decGroup, pv]
  rw [decResponse, hnb]
  exact (ite_eq_or_eq _ _ _).symm

/-- R70, R78: a legal beat keeps the count: a last one starts it again, any other adds its group. -/
theorem decAfter_countsGroups {rs : List DecResponse} {last : Bool} {cnt : BitVec 3} {c0 c1 c2 c3 : Byte} {s : State}
    (hf : decFraming last cnt s.decOpen = none) (h : CountsGroups rs s) :
    CountsGroups (rs ++ [decResponse last cnt c0 c1 c2 c3 s]) (decAfter last cnt c0 c1 c2 c3 s) := by
  cases last with
  | true =>
    refine ⟨fun _ => ⟨rfl, rfl⟩, ?_⟩
    rw [openGroups_concat_done rfl]
    exact (Nat.zero_mod _).symm
  | false =>
    obtain rfl := cnt_of_continuing hf
    refine ⟨nofun, ?_⟩
    show (s.decOlen + (decResponse false 4#3 c0 c1 c2 c3 s).qcnt.toNat) % 2 ^ s.cfg.lenW = _ % 2 ^ s.cfg.lenW
    rw [openGroups_concat rfl, h.count, Nat.mod_add_mod]
    obtain hq | hq := decResponse_qcnt_continuing c0 c1 c2 c3 s <;> rw [hq] <;> rfl

/-- R78: so does every DEC beat; a Fault produces no byte and ends no message. -/
theorem acceptDec_countsGroups {rs : List DecResponse} {w : DecWord} {s t : State} (h : CountsGroups rs s)
    (ht : acceptDec w s = .next t) : ∃ d, t.decOut = s.decOut ++ d ∧ CountsGroups (rs ++ d) t := by
  rw [acceptDec_eq_decStep] at ht
  obtain ⟨-, he⟩ | ⟨-, code, hf, he⟩ | ⟨-, hf, he⟩ :=
    decStep_cases (decLast w) (decCnt w) (decC0 w) (decC1 w) (decC2 w) (decC3 w) s <;> cases he.symm.trans ht
  · exact ⟨[], (List.append_nil _).symm, by rwa [List.append_nil]⟩
  · rw [raiseFault_dec code s (decFraming_port hf)]
    refine ⟨[decFaultResponse], rfl, h.closed, h.count.trans ?_⟩
    rw [openGroups_concat rfl]
    rfl
  · exact ⟨_, rfl, decAfter_countsGroups hf h⟩

/-- R78, R104: so does every beat; an ENC beat leaves the DEC port alone. -/
theorem acceptBeat_countsGroups {rs : List DecResponse} {b : Beat} {s t : State} (h : CountsGroups rs s)
    (ht : acceptBeat b s = .next t) : t.cfg = s.cfg ∧ ∃ d, t.decOut = s.decOut ++ d ∧ CountsGroups (rs ++ d) t := by
  cases b with
  | enc w =>
    obtain ⟨u, hu, hcfg, -, ⟨holen, hopen, herr, -, hout⟩, -⟩ := acceptEnc_frame w s
    cases hu.symm.trans ht
    refine ⟨hcfg, [], by simpa using hout, ?_, ?_⟩
    · rw [State.ClosedIsClean, holen, hopen, herr]
      exact h.closed
    · rw [holen, hcfg, List.append_nil]
      exact h.count
  | dec w =>
    obtain ⟨u, hu, hcfg, -⟩ := acceptDec_frame w s
    cases hu.symm.trans ht
    exact ⟨hcfg, acceptDec_countsGroups h ht⟩

/-- R78: so does every run of beats. -/
theorem runSteps_countsGroups (bs : List Beat) {rs : List DecResponse} {s : State} (h : CountsGroups rs s) :
    ∃ t d, runSteps bs.length (presentBeats bs s) = .next t ∧ t.cfg = s.cfg ∧ t.decOut = s.decOut ++ d ∧
      CountsGroups (rs ++ d) t := by
  induction bs generalizing rs s with
  | nil => exact ⟨s, [], rfl, rfl, (List.append_nil _).symm, by rwa [List.append_nil]⟩
  | cons b bs ih =>
    obtain ⟨u, hu, -⟩ := acceptBeat_next b s
    obtain ⟨hcfg, d, hout, hcount⟩ := acceptBeat_countsGroups h hu
    obtain ⟨t, e, hrun, hcfg', hout', hcount'⟩ := ih hcount
    exact ⟨t, d ++ e, (runSteps_presentBeats_next hu bs).trans hrun, hcfg'.trans hcfg,
      by rw [hout', hout, List.append_assoc], by rwa [← List.append_assoc]⟩

/-- Settles O48: a clean port meets the invariant with no response given. -/
theorem decCounterCountsGroupsOfThree : Obligations.DecCounterCountsGroupsOfThree := by
  intro bs s hs
  obtain ⟨t, rs, hrun, hcfg, hout, hclosed, hcount⟩ := runSteps_countsGroups bs (countsGroups_of_clean hs)
  exact ⟨t, rs, hrun, hout, hclosed, hcfg ▸ hcount⟩

end Sys2Proof.Proofs

/-! PROOFS, family 41_decoder.md. Texts (R79 to R82, R89): the shape of a text that decodes, and how many bytes
it gives. -/

namespace Sys2Proof.Proofs

open Sys2Proof.Machine Sys2Proof.Laws

/-! ## `decode` and its loop -/

/-- R79: the loop refuses a length that is no multiple of 4 by itself. -/
theorem decodeGroups_of_length {text : List Byte} (h : text.length % 4 ≠ 0) : decodeGroups text = none := by
  induction text using decMsg.induct with
  | case1 => exact absurd rfl h
  | case5 => exact absurd (Nat.mod_self 4) h
  | case2 | case3 | case4 => rfl
  | case6 c0 c1 c2 c3 c4 rest ih =>
    have hrest : (c4 :: rest).length % 4 ≠ 0 := fun hlen => h ((Nat.add_mod_right (c4 :: rest).length 4).trans hlen)
    simp [decodeGroups, ih hrest]

theorem decodeText_eq_decodeGroups (text : List Byte) : decodeText text = decodeGroups text := by
  rw [decodeText]
  split_ifs with hlen
  · exact (decodeGroups_of_length hlen).symm
  · rfl

/-- Settles O53: the loop of `decode` gives back what was encoded. -/
theorem decodeOfEncodeIsTheMessage : Obligations.DecodeOfEncodeIsTheMessage := by
  intro b
  rw [decodeText_eq_decodeGroups, decodeGroups_encodeBytes]

/-! ## The shape of a text that decodes (R81, R82) -/

/-- R68: a group has `nb` bytes. -/
theorem groupBytes_length (g : DecGroup) : (groupBytes g).length = g.nb.toNat := by
  have hnb : g.nb.toNat ≤ 3 := Nat.le_of_lt_succ g.nb.isLt
  rw [groupBytes, List.length_take]
  exact min_eq_left hnb

/-- R72: a good last group is data characters, then at most two of padding, each of which costs a byte. -/
theorem decGroup_ok_last_shape {c0 c1 c2 c3 : Byte} (h : (decGroup true 4#3 c0 c1 c2 c3).ok = true) :
    ∃ (d : List Byte) (n : Nat), (∀ c ∈ d, isDataChar c = true) ∧ [c0, c1, c2, c3] = d ++ List.replicate n padChar ∧
      n ≤ 2 ∧ (groupBytes (decGroup true 4#3 c0 c1 c2 c3)).length + n = 3 := by
  rw [decGroup_ok_last] at h
  obtain ⟨⟨h0, h1⟩, (⟨h2, h3⟩ | ⟨h2, rfl⟩) | ⟨rfl, rfl⟩⟩ : (isDataChar c0 = true ∧ isDataChar c1 = true) ∧
      ((isDataChar c2 = true ∧ isDataChar c3 = true ∨ isDataChar c2 = true ∧ c3 = padChar) ∨
        c2 = padChar ∧ c3 = padChar) := by simpa using h
  · exact ⟨[c0, c1, c2, c3], 0, by simp [h0, h1, h2, h3], rfl, by decide,
      by rw [groupBytes_length, decGroup_of_data true h0 h1 h2 h3]; rfl⟩
  · exact ⟨[c0, c1, c2], 1, by simp [h0, h1, h2], rfl, by decide,
      by rw [groupBytes_length, decGroup_of_one_pad h0 h1 h2]; rfl⟩
  · exact ⟨[c0, c1], 2, by simp [h0, h1], rfl, by decide,
      by rw [groupBytes_length, decGroup_of_two_pads h0 h1]; rfl⟩

/-- R81, R82: a text that decodes is data characters, then at most two of padding; it gives three bytes a group, less
its padding. -/
theorem eq_data_append_pads_of_decodeText {text out : List Byte} (h : decodeText text = some out) :
    ∃ (d : List Byte) (n : Nat), (∀ c ∈ d, isDataChar c = true) ∧ text = d ++ List.replicate n padChar ∧
      n ≤ 2 ∧ out.length + n = text.length / 4 * 3 := by
  rw [decodeText_eq_decodeGroups] at h
  induction text using decMsg.induct generalizing out with
  | case1 =>
    cases h
    exact ⟨[], 0, nofun, rfl, by decide, rfl⟩
  | case2 | case3 | case4 => cases h
  | case5 c0 c1 c2 c3 =>
    obtain ⟨hok, rfl⟩ : _ ∧ groupBytes (decGroup true 4#3 c0 c1 c2 c3) = out := by simpa [decodeGroups] using h
    have hlen : [c0, c1, c2, c3].length / 4 * 3 = 3 := by simp
    rw [hlen]
    exact decGroup_ok_last_shape hok
  | case6 c0 c1 c2 c3 c4 rest ih =>
    obtain ⟨hok, tail, htail, rfl⟩ : _ ∧ ∃ tail, decodeGroups (c4 :: rest) = some tail ∧
        groupBytes (decGroup false 4#3 c0 c1 c2 c3) ++ tail = out := by simpa [decodeGroups] using h
    obtain ⟨⟨⟨h0, h1⟩, h2⟩, h3⟩ : ((isDataChar c0 = true ∧ isDataChar c1 = true) ∧ isDataChar c2 = true) ∧
        isDataChar c3 = true := by simpa [decGroup_ok_continuing] using hok
    obtain ⟨d, n, hd, hrest, hn, hlen⟩ := ih htail
    refine ⟨[c0, c1, c2, c3] ++ d, n, by simpa [h0, h1, h2, h3] using hd, by rw [hrest]; simp, hn, ?_⟩
    rw [List.length_append, groupBytes_length_continuing]
    simp only [List.length_cons] at hlen ⊢
    omega

/-- R81: in data characters followed by padding, no data character comes after padding. -/
theorem padBeforeData_data_append_pads {d : List Byte} (hd : ∀ c ∈ d, isDataChar c = true) (n : Nat) :
    padBeforeData (d ++ List.replicate n padChar) = false := by
  induction d with
  | nil =>
    induction n with
    | zero => rfl
    | succ n ih => simpa [List.replicate_succ, padBeforeData] using ih
  | cons c d ih =>
    obtain ⟨hc, hd⟩ := List.forall_mem_cons.1 hd
    simp [padBeforeData, ne_padChar_of_isDataChar hc, ih hd]

/-- Settles O57: a text that decodes has the shape of `eq_data_append_pads_of_decodeText`, which no text of the
four kinds has. -/
theorem badTextIsRejected : Obligations.BadTextIsRejected := by
  intro text
  have hreject (hbad : ∀ d n, (∀ c ∈ d, isDataChar c = true) → n ≤ 2 → text ≠ d ++ List.replicate n padChar) :
      decodeText text = none := by
    rw [Option.eq_none_iff_forall_ne_some]
    intro out hout
    obtain ⟨d, n, hd, htext, hn, -⟩ := eq_data_append_pads_of_decodeText hout
    exact hbad d n hd hn htext
  refine ⟨fun ⟨c, hc, hout⟩ => hreject ?_, fun hpad => hreject ?_, fun hpads => hreject ?_, fun hlen => if_pos hlen⟩
  · rintro d n hd - rfl
    rw [List.mem_append] at hc
    exact hout (hc.imp (hd c) List.eq_of_mem_replicate)
  · rintro d n hd - rfl
    simp [padBeforeData_data_append_pads hd] at hpad
  · rintro d n hd hn rfl
    rw [trailingPads_data_append_pads hd] at hpads
    omega

end Sys2Proof.Proofs

/-! PROOFS, family 41_decoder.md. Messages on the DEC port (R49, R79, R89): what a run over `DEC.MSG` delivers of any text,
from a message that has failed or not. -/

namespace Sys2Proof.Proofs

open Sys2Proof.Machine Sys2Proof.Laws

/-! ## What the groups before the first failing one give -/

/-- R79: of a text that decodes, everything. -/
theorem goodPrefix_of_decodeGroups {text out : List Byte} (h : decodeGroups text = some out) :
    goodPrefix text = out := by
  induction text using decMsg.induct generalizing out with
  | case1 =>
    cases h
    rfl
  | case2 | case3 | case4 => cases h
  | case5 c0 c1 c2 c3 =>
    obtain ⟨hok, rfl⟩ : _ ∧ groupBytes (decGroup true 4#3 c0 c1 c2 c3) = out := by simpa [decodeGroups] using h
    exact if_pos hok
  | case6 c0 c1 c2 c3 c4 rest ih =>
    obtain ⟨hok, tail, htail, rfl⟩ : _ ∧ ∃ tail, decodeGroups (c4 :: rest) = some tail ∧
        groupBytes (decGroup false 4#3 c0 c1 c2 c3) ++ tail = out := by simpa [decodeGroups] using h
    simp [goodPrefix, hok, ih htail]

/-- R68: no group has more than three bytes. -/
theorem groupBytes_length_le (g : DecGroup) : (groupBytes g).length ≤ 3 :=
  (groupBytes_length g).trans_le (Nat.le_of_lt_succ g.nb.isLt)

/-- R82: three bytes a group at most. -/
theorem goodPrefix_length_le (text : List Byte) : (goodPrefix text).length ≤ text.length / 4 * 3 := by
  induction text using decMsg.induct with
  | case1 | case2 | case3 | case4 => exact Nat.zero_le _
  | case5 c0 c1 c2 c3 =>
    have hlen : [c0, c1, c2, c3].length / 4 * 3 = 3 := by simp
    rw [goodPrefix, hlen]
    split
    · exact groupBytes_length_le _
    · exact Nat.zero_le _
  | case6 c0 c1 c2 c3 c4 rest ih =>
    have hgroup := groupBytes_length_le (decGroup false 4#3 c0 c1 c2 c3)
    rw [goodPrefix]
    split
    · simp only [List.length_append, List.length_cons] at ih ⊢
      omega
    · exact Nat.zero_le _

/-! ## One response -/

section Response

variable (last : Bool) (cnt : BitVec 3) (c0 c1 c2 c3 : Byte) (s : State)

/-- R70: a legal beat delivers its group's bytes, or nothing when the message has failed by it. -/
theorem decResponse_validLanes : (decResponse last cnt c0 c1 c2 c3 s).validLanes =
    if s.decErr || !(decGroup last cnt c0 c1 c2 c3).ok then [] else groupBytes (decGroup last cnt c0 c1 c2 c3) := by
  cases hfail : s.decErr || !(decGroup last cnt c0 c1 c2 c3).ok <;>
    simp [decResponse, DecResponse.validLanes, groupBytes, hfail]

/-- R42: a response has `qcnt` valid lanes. -/
theorem validLanes_length (r : DecResponse) : r.validLanes.length = r.qcnt.toNat := by
  have hqcnt : r.qcnt.toNat ≤ 3 := Nat.le_of_lt_succ r.qcnt.isLt
  rw [DecResponse.validLanes, List.length_take]
  exact min_eq_left hqcnt

/-- R70: a legal beat counts the bytes that it delivers. -/
theorem decResponse_total : (decResponse last cnt c0 c1 c2 c3 s).total =
    (s.decOlen + (decResponse last cnt c0 c1 c2 c3 s).validLanes.length) % 2 ^ s.cfg.lenW := by
  rw [validLanes_length]
  rfl

end Response

/-! ## A run over `DEC.MSG` -/

/-- The bytes that a run over a text delivers, when the message has failed before it or not. -/
def deliveredBytes (failed : Bool) (text : List Byte) : List Byte := if failed then [] else goodPrefix text

/-- What a run over a text adds to the responses of `s` to give those of `t` (R79, R112): the bytes, and the verdict and
the total that the last response reports. -/
structure Delivers (text : List Byte) (s t : State) : Prop where
  bytes : bytesOf t.decOut = bytesOf s.decOut ++ deliveredBytes s.decErr text
  verdict : t.decOut.getLast?.map DecResponse.fail = some (s.decErr || (decodeGroups text).isNone)
  total : t.decOut.getLast?.map DecResponse.total =
    some ((s.decOlen + (deliveredBytes s.decErr text).length) % 2 ^ s.cfg.lenW)

/-- R112: the bytes of the responses before one and of that one. -/
theorem bytesOf_concat (rs : List DecResponse) (r : DecResponse) :
    bytesOf (rs ++ [r]) = bytesOf rs ++ r.validLanes := by
  simp [bytesOf]

/-- R79: a text whose one group stands on a last beat. -/
theorem delivers_of_last_group {text : List Byte} {cnt : BitVec 3} {c0 c1 c2 c3 : Byte} (s : State)
    (hgood : goodPrefix text =
      if (decGroup true cnt c0 c1 c2 c3).ok then groupBytes (decGroup true cnt c0 c1 c2 c3) else [])
    (hdecode : (decodeGroups text).isNone = !(decGroup true cnt c0 c1 c2 c3).ok) :
    Delivers text s (decAfter true cnt c0 c1 c2 c3 s) := by
  have hlanes : (decResponse true cnt c0 c1 c2 c3 s).validLanes = deliveredBytes s.decErr text := by
    rw [decResponse_validLanes, deliveredBytes, hgood]
    cases s.decErr <;> cases (decGroup true cnt c0 c1 c2 c3).ok <;> rfl
  refine ⟨?_, ?_, ?_⟩
  · rw [← hlanes]
    exact bytesOf_concat s.decOut _
  · rw [hdecode]
    exact congrArg (Option.map DecResponse.fail) List.getLast?_concat
  · rw [← hlanes, ← decResponse_total]
    exact congrArg (Option.map DecResponse.total) List.getLast?_concat

/-- R79: a text whose first group stands on a beat that is not last. -/
theorem delivers_of_group {c0 c1 c2 c3 c4 : Byte} {rest : List Byte} {s t : State}
    (h : Delivers (c4 :: rest) (decAfter false 4#3 c0 c1 c2 c3 s) t) :
    Delivers (c0 :: c1 :: c2 :: c3 :: c4 :: rest) s t := by
  obtain ⟨hbytes, hverdict, htotal⟩ := h
  have hcfg : (decAfter false 4#3 c0 c1 c2 c3 s).cfg = s.cfg := rfl
  have holen : (decAfter false 4#3 c0 c1 c2 c3 s).decOlen =
      (s.decOlen + (decResponse false 4#3 c0 c1 c2 c3 s).validLanes.length) % 2 ^ s.cfg.lenW := decResponse_total ..
  have herr : (decAfter false 4#3 c0 c1 c2 c3 s).decErr = (s.decErr || !(decGroup false 4#3 c0 c1 c2 c3).ok) := rfl
  have hlanes : deliveredBytes s.decErr (c0 :: c1 :: c2 :: c3 :: c4 :: rest) =
      (decResponse false 4#3 c0 c1 c2 c3 s).validLanes ++
        deliveredBytes (s.decErr || !(decGroup false 4#3 c0 c1 c2 c3).ok) (c4 :: rest) := by
    rw [decResponse_validLanes]
    cases s.decErr <;> cases hok : (decGroup false 4#3 c0 c1 c2 c3).ok <;> simp [deliveredBytes, goodPrefix, hok]
  refine ⟨?_, ?_, ?_⟩
  · rw [hbytes, hlanes, herr, ← List.append_assoc]
    exact congrArg (· ++ _) (bytesOf_concat s.decOut _)
  · rw [hverdict, herr]
    cases hok : (decGroup false 4#3 c0 c1 c2 c3).ok <;> simp [decodeGroups, hok]
  · rw [htotal, holen, hcfg, Nat.mod_add_mod, herr, hlanes, List.length_append, Nat.add_assoc]

/-- R79: a text that stands on a last beat of a wrong length. -/
theorem delivers_of_lengthError {text : List Byte} {cnt : BitVec 3} {c0 c1 c2 c3 : Byte} (s : State)
    (hlen : lengthError true cnt = true) (hgood : goodPrefix text = []) (hdecode : decodeGroups text = none) :
    Delivers text s (decAfter true cnt c0 c1 c2 c3 s) := by
  have hok := decGroup_ok_of_lengthError hlen c0 c1 c2 c3
  exact delivers_of_last_group s (by rw [hok, hgood]; rfl) (by rw [hok, hdecode]; rfl)

/-- R18, R70: a run whose first operation is a legal step of the DEC port. -/
theorem runBeats_of_decStep {i : Instr} {is : List Instr} {last : Bool} {cnt : BitVec 3} {c0 c1 c2 c3 : Byte}
    {s t : State} (he : exec i s = decStep last cnt c0 c1 c2 c3 s) (hs : s.decFault = false)
    (hf : decFraming last cnt s.decOpen = none) (hrun : runBeats (i :: is) s = .next t) :
    runBeats is (decAfter last cnt c0 c1 c2 c3 s) = .next t := by
  rwa [runBeats_cons (he.trans (decStep_legal hs hf))] at hrun

/-- R49, R79: a run over `DEC.MSG` of any text. -/
theorem runBeats_decMsg_delivers {text : List Byte} {s t : State} (hs : s.decFault = false)
    (hopen : text = [] → s.decOpen = false) (hrun : runBeats (decMsg text) s = .next t) : Delivers text s t := by
  induction text using decMsg.induct generalizing s with
  | case1 =>
    have hframe : decFraming true 0#3 s.decOpen = none := by rw [hopen rfl]; rfl
    cases runBeats_of_decStep (i := .decE0) rfl hs hframe hrun
    exact delivers_of_last_group s rfl rfl
  | case2 c0 =>
    cases runBeats_of_decStep (i := .decL1 c0) (last := true) (cnt := 1#3) rfl hs rfl hrun
    exact delivers_of_lengthError s rfl rfl rfl
  | case3 c0 c1 =>
    cases runBeats_of_decStep (i := .decL2 c0 c1) (last := true) (cnt := 2#3) rfl hs rfl hrun
    exact delivers_of_lengthError s rfl rfl rfl
  | case4 c0 c1 c2 =>
    cases runBeats_of_decStep (i := .decL3 c0 c1 c2) (last := true) (cnt := 3#3) rfl hs rfl hrun
    exact delivers_of_lengthError s rfl rfl rfl
  | case5 c0 c1 c2 c3 =>
    cases runBeats_of_decStep (i := .decL4 c0 c1 c2 c3) (last := true) (cnt := 4#3) rfl hs rfl hrun
    refine delivers_of_last_group s rfl ?_
    cases hok : (decGroup true 4#3 c0 c1 c2 c3).ok <;> simp [decodeGroups, hok]
  | case6 c0 c1 c2 c3 c4 rest ih =>
    have hrest := runBeats_of_decStep (i := .decG4 c0 c1 c2 c3) (last := false) (cnt := 4#3) rfl hs rfl hrun
    exact delivers_of_group (ih hs nofun hrest)

/-- R30: a full group before a well-framed rest on the DEC port that is not the empty message. -/
theorem wellFramed_decG4_cons {c0 c1 c2 c3 : Byte} {is : List Instr} (h : wellFramed .dec is = true)
    (hne : is ≠ [.decE0]) : wellFramed .dec (.decG4 c0 c1 c2 c3 :: is) = true := by
  cases is with
  | nil => simp [wellFramed] at h
  | cons j rest => simpa [wellFramed, Instr.port, Instr.isLast, h, imp_iff_not_or, or_comm] using hne

/-- R49: `DEC.MSG` gives the empty message for no text but the empty one. -/
theorem decMsg_ne_decE0 {text : List Byte} (h : text ≠ []) : decMsg text ≠ [.decE0] := by
  cases text using decMsg.induct with
  | case1 => exact absurd rfl h
  | case2 | case3 | case4 | case5 | case6 => simp [decMsg]

/-- R30, R49: `DEC.MSG` frames every text as it must. -/
theorem wellFramed_decMsg (text : List Byte) : wellFramed .dec (decMsg text) = true := by
  induction text using decMsg.induct with
  | case1 | case2 | case3 | case4 | case5 => rfl
  | case6 c0 c1 c2 c3 c4 rest ih => exact wellFramed_decG4_cons ih (decMsg_ne_decE0 (List.cons_ne_nil c4 rest))

/-- R79: a run over `DEC.MSG` of any text from a clean port. -/
theorem runBeats_decMsg_clean (text : List Byte) {s : State} (h : DecClean s) :
    ∃ rs r, runBeats (decMsg text) s = .next { s with decOut := s.decOut ++ (rs ++ [r]) } ∧
      bytesOf (rs ++ [r]) = goodPrefix text ∧ r.fail = (decodeGroups text).isNone ∧
      r.total = (goodPrefix text).length % 2 ^ s.cfg.lenW ∧
      r.done = true ∧ r.fault = false ∧ ∀ x ∈ rs, x.done = false ∧ x.fault = false := by
  obtain ⟨rs, r, hrun, -, hrest⟩ := wellFramedMessageEndsClean.2 _ s (wellFramed_decMsg text) h
  obtain ⟨hs, hopen, holen, herr⟩ := h
  obtain ⟨hbytes, hverdict, htotal⟩ := runBeats_decMsg_delivers hs (fun _ => hopen) hrun
  refine ⟨rs, r, hrun, ?_, ?_, ?_, hrest⟩
  · simpa [bytesOf, deliveredBytes, herr] using hbytes
  · simpa [herr, ← List.append_assoc] using hverdict
  · simpa [holen, deliveredBytes, herr, ← List.append_assoc] using htotal

/-- Settles O52: the run delivers the groups before the first failing one, which of a text that decodes is all, with no
failure. -/
theorem decMessageDeliversTheDecoding : Obligations.DecMessageDeliversTheDecoding := by
  intro text s h
  obtain ⟨rs, r, hrun, hbytes, hverdict, htotal, hdone, hfault, hall⟩ := runBeats_decMsg_clean text h
  refine ⟨rs, r, hrun, hdone, fun x hx => (hall x hx).1,
    List.forall_mem_append.2 ⟨fun x hx => (hall x hx).2, List.forall_mem_singleton.2 hfault⟩, fun out hout => ?_,
    fun hnone => ?_⟩
  · rw [decodeText_eq_decodeGroups] at hout
    obtain ⟨hs, hopen, -, herr⟩ := h
    obtain ⟨ds, hrun', -, hgood⟩ := runBeats_decMsg hout hs herr fun _ => hopen
    have hds : s.decOut ++ ds = s.decOut ++ (rs ++ [r]) :=
      congrArg State.decOut (Host.Outcome.next.inj (hrun'.symm.trans hrun))
    obtain rfl := List.append_cancel_left hds
    rw [goodPrefix_of_decodeGroups hout] at hbytes htotal
    exact ⟨hbytes, fun x hx => (hgood x hx).1, htotal⟩
  · rw [decodeText_eq_decodeGroups] at hnone
    exact ⟨by rw [hverdict, hnone]; rfl, hbytes⟩

/-- Settles O58: the shape of a text that decodes gives its exact length, and the groups before the first failing one
have at most three bytes each. -/
theorem decodedBytesAreBounded : Obligations.DecodedBytesAreBounded := by
  refine ⟨fun text out _ hout => ?_, fun text s u h hrun => ?_⟩
  · obtain ⟨d, n, hd, rfl, hn, hlen⟩ := eq_data_append_pads_of_decodeText hout
    rw [trailingPads_data_append_pads hd]
    exact ⟨hn, hlen⟩
  · obtain ⟨rs, r, hmsg, hbytes, -⟩ := runBeats_decMsg_clean text h
    cases hmsg.symm.trans hrun
    rw [List.drop_left, hbytes]
    exact Nat.add_le_add_right (goodPrefix_length_le text) 2

end Sys2Proof.Proofs

/-! PROOFS, family 42_padding_validator.md. The padding validator `PV` (R83, R84) in a full last beat and in every other
beat. -/

namespace Sys2Proof.Proofs

open Sys2Proof.Machine Sys2Proof.Laws

/-- R68, R84: a masked flag is set when the lane's flag is and the lane is valid. -/
theorem inLane_eq_true_iff (i cnt : BitVec 3) (x : Bool) :
    inLane i cnt x = true ↔ x = true ∧ i.toNat < cnt.toNat := by
  simp [inLane, BitVec.lt_def]

/-- R84: the trailing padding of a full last beat. -/
theorem pv_npad_full_last (p0 p1 p2 p3 : Bool) : (pv true 4#3 p0 p1 p2 p3).npad =
    if (p0, p1, p2, p3) = (false, false, false, true) then 1#2
    else if (p0, p1, p2, p3) = (false, false, true, true) then 2#2 else 0#2 := by
  revert p0 p1 p2 p3
  decide

/-- R84: the padding of a full last beat is no error in three patterns. -/
theorem pv_padErr_full_last_eq_false_iff (p0 p1 p2 p3 : Bool) : (pv true 4#3 p0 p1 p2 p3).padErr = false ↔
    (p0, p1, p2, p3) = (false, false, false, false) ∨ (p0, p1, p2, p3) = (false, false, false, true) ∨
      (p0, p1, p2, p3) = (false, false, true, true) := by
  rw [pv_padErr_full_last]
  revert p0 p1 p2 p3
  decide

/-- R84: in a beat that is not a full last one, `PV` counts no padding and takes every valid lane's for an error. -/
theorem pv_of_not_full_last {last : Bool} {cnt : BitVec 3} (h : ¬(last = true ∧ cnt = 4#3)) (p0 p1 p2 p3 : Bool) :
    pv last cnt p0 p1 p2 p3 =
      { npad := 0#2
        padErr := inLane 0#3 cnt p0 || inLane 1#3 cnt p1 || inLane 2#3 cnt p2 || inLane 3#3 cnt p3
        lenErr := lengthError last cnt } :=
  if_neg (by simpa using h)

/-- Settles O18: the length error does not look at the padding, a full last beat is a table of its four flags, and any other
beat is a search for padding in its valid lanes. -/
theorem paddingValidatorTable : Obligations.PaddingValidatorTable := by
  intro last cnt p0 p1 p2 p3 _
  refine ⟨pv_lenErr last cnt p0 p1 p2 p3, ?_, fun h => ?_⟩
  · rintro rfl rfl
    exact ⟨pv_npad_full_last p0 p1 p2 p3, pv_padErr_full_last_eq_false_iff p0 p1 p2 p3⟩
  · rw [pv_of_not_full_last h]
    exact ⟨rfl, by simp [inLane_eq_true_iff, or_assoc]⟩

end Sys2Proof.Proofs

/-! PROOFS, family 43_size_helpers.md. The size functions (R87 to R90): `ceilDiv` is the lower adjoint of multiplication,
which gives the least length of R87 and the bound of R90. -/

namespace Sys2Proof.Proofs

open Sys2Proof.Machine

/-- R6: `ceilDiv a b` is the least number whose product with `b` reaches `a`. -/
theorem ceilDiv_le_iff {a b k : Nat} (hb : 0 < b) : ceilDiv a b ≤ k ↔ a ≤ b * k :=
  ceilDiv_le_iff_le_mul hb

/-- R87: the bytes that fit in `k` groups, three to a group, are those whose text does. -/
theorem encodedLength_le_four_mul_iff {n k : Nat} : encodedLength n ≤ 4 * k ↔ n ≤ 3 * k := by
  rw [← ceilDiv_le_iff three_pos, encodedLength, Nat.mul_comm, Nat.mul_le_mul_left_iff four_pos]

/-- R87: a text is made of whole groups. -/
theorem encodedLength_mod_four (n : Nat) : encodedLength n % 4 = 0 :=
  Nat.mul_mod_left _ 4

/-- R87: the text has room for all `n` bytes, three to a group of four characters. -/
theorem four_mul_le_three_mul_encodedLength (n : Nat) : 4 * n ≤ 3 * encodedLength n := by
  have h : n ≤ 3 * ceilDiv n 3 := (ceilDiv_le_iff three_pos).1 le_rfl
  rw [encodedLength]
  omega

/-- R87: no smaller multiple of 4 reaches 4n/3. -/
theorem encodedLength_le_of_multiple {n m : Nat} (hm : m % 4 = 0) (h : 4 * n ≤ 3 * m) : encodedLength n ≤ m := by
  obtain ⟨k, rfl⟩ := Nat.dvd_of_mod_eq_zero hm
  exact encodedLength_le_four_mul_iff.2 (by omega)

/-- R88: the capacity reserves one slot more than the text. -/
theorem encodedCapacity_eq (n : Nat) : encodedCapacity n = encodedLength n + 1 := rfl

/-- R89: the capacity for the text of `n` bytes holds them and the slack of two. -/
theorem add_two_le_decodedCapacity (n : Nat) : n + 2 ≤ decodedCapacity (encodedLength n) := by
  have hmod := encodedLength_mod_four n
  have hle := four_mul_le_three_mul_encodedLength n
  rw [decodedCapacity]
  omega

/-- R90: the bound is one terminator after 2^(`w` - 2) - 1 groups. -/
theorem four_mul_two_pow_sub_one {w : Nat} (hw : 2 ≤ w) : 4 * (2 ^ (w - 2) - 1) + 1 = 2 ^ w - 3 := by
  have hpow : 2 ^ w = 2 ^ (w - 2) * 4 := (pow_sub_mul_pow 2 hw).symm
  have hpos : 0 < 2 ^ (w - 2) := Nat.two_pow_pos _
  omega

/-- R90: the capacity fits in `w` bits when the bytes fill no more than the groups that do. -/
theorem encodedCapacity_le {w n : Nat} (hw : 2 ≤ w) (hn : n ≤ 3 * (2 ^ (w - 2) - 1)) :
    encodedCapacity n ≤ 2 ^ w - 3 := by
  rw [encodedCapacity_eq, ← four_mul_two_pow_sub_one hw]
  exact Nat.add_le_add_right (encodedLength_le_four_mul_iff.2 hn) 1

/-- Settles O59: the closed forms are the definitions, the length is the least multiple of 4 because `ceilDiv` is least,
and 2^`W` - 3 is one more than a number of whole groups. -/
theorem sizeFunctionsAreExact : Obligations.SizeFunctionsAreExact := by
  refine ⟨fun n => ⟨rfl, rfl, rfl⟩, fun n => ⟨encodedLength_mod_four n, four_mul_le_three_mul_encodedLength n,
    fun m => encodedLength_le_of_multiple, encodedCapacity_eq n⟩, ?_, fun w n hw => encodedCapacity_le (by omega)⟩
  rintro n len rfl
  exact add_two_le_decodedCapacity n

end Sys2Proof.Proofs

/-! PROOFS, family 60_exceptions.md. A faulted port stays out of service until a reset (R94, R99). -/

namespace Sys2Proof.Proofs

open Sys2Proof.Machine Sys2Proof.Laws

/-- Settles O31: an idle step moves nothing; in any other with `rst` = 0 each port holds what its own part of the cycle
gives, and on a faulted port that part does nothing. -/
theorem onlyResetReturnsAFaultedPort : Obligations.OnlyResetReturnsAFaultedPort := by
  intro s t hstep hnorst
  obtain ⟨-, h⟩ | ⟨c, rest, hin, hrst, -⟩ | ⟨c, rest, hin, hrst, -⟩ := step_cases s
  case inl =>
    cases h.symm.trans hstep
    exact ⟨fun _ => ⟨rfl, rfl, rfl⟩, fun _ => ⟨rfl, rfl, rfl, rfl, rfl⟩⟩
  case inr.inl =>
    cases (hnorst c (by simp [hin])).symm.trans hrst
  case inr.inr =>
    obtain ⟨u, v, hu, hv, henc, hdec⟩ := step_ports hin hrst hstep
    refine ⟨fun hfault => ?_, fun hfault => ?_⟩
    · cases (encCycle_eq_next_self (.inl hfault)).symm.trans hu
      exact henc
    · cases (decCycle_eq_next_self (.inl hfault)).symm.trans hv
      exact hdec

end Sys2Proof.Proofs

/-! PROOFS, family 70_reset_and_hazards.md. A cycle with `rst` = 1 (R107), and that every step answers (R110, R113). -/

namespace Sys2Proof.Proofs

open Sys2Proof.Machine Sys2Proof.Laws

/-- R16, R107: in a cycle with `rst` = 1 the ENC port is not ready and answers nothing, whatever beat is presented. -/
theorem encPins_of_rst {c : Cycle} (hrst : c.rst = true) (s : State) :
    encPins c s = { ready := false, resp := none, fault := s.encFault } := by
  have hready : encReady c.rst s = false := by simp [encReady, hrst]
  simp [encPins, hready, encFaultOut]

/-- R17, R107: in a cycle with `rst` = 1 the DEC port is not ready and answers nothing, whatever beat is presented. -/
theorem decPins_of_rst {c : Cycle} (hrst : c.rst = true) (s : State) :
    decPins c s = { ready := false, resp := none, fault := s.decFault } := by
  have hready : decReady c.rst s = false := by simp [decReady, hrst]
  simp [decPins, hready, decFaultOut]

/-- R107: a step that does not leave every faulted port as it was took a cycle with `rst` = 1. -/
theorem exists_rst_of_faulted_port_changed {s t : State} (hstep : step s = .next t)
    (hchanged : ¬((s.encFault = true → SameEncPort s t) ∧ (s.decFault = true → SameDecPort s t))) :
    ∃ c ∈ s.input.head?, c.rst = true := by
  by_contra hnone
  have hnorst : ∀ c ∈ s.input.head?, c.rst = false := by simpa using hnone
  exact hchanged (onlyResetReturnsAFaultedPort s t hstep hnorst)

/-- Settles O30: a cycle with `rst` = 1 writes zeros and shows no response; a step that clears a fault register has
changed a faulted port, which only such a cycle can do. -/
theorem resetWinsOverEveryBeat : Obligations.ResetWinsOverEveryBeat := by
  refine ⟨fun s c rest hin hrst => ?reset, fun s t hstep => ⟨fun hset hclear => ?enc, fun hset hclear => ?dec⟩⟩
  case reset => exact ⟨step_of_rst hin hrst, encPins_of_rst hrst s, decPins_of_rst hrst s⟩
  case enc =>
    refine exists_rst_of_faulted_port_changed hstep fun ⟨hsame, _⟩ => ?_
    obtain ⟨-, hfault, -⟩ := hsame hset
    simp [hset, hclear] at hfault
  case dec =>
    refine exists_rst_of_faulted_port_changed hstep fun ⟨_, hsame⟩ => ?_
    obtain ⟨-, -, -, hfault, -⟩ := hsame hset
    simp [hset, hclear] at hfault

/-- Settles O43: an idle and a reset step answer at once; in any other the ENC port's part of the cycle answers a state,
and the DEC port's part answers from it. -/
theorem everyStepAnswersANextState : Obligations.EveryStepAnswersANextState := by
  intro s
  obtain ⟨-, h⟩ | ⟨c, rest, -, -, h⟩ | ⟨c, rest, -, -, h⟩ := step_cases s
  case inl | inr.inl => exact ⟨_, h⟩
  case inr.inr =>
    obtain ⟨u, hu, -⟩ := encCycle_frame c.enc { s with input := rest }
    obtain ⟨t, ht, -⟩ := decCycle_frame c.dec u
    exact ⟨t, by rw [h, hu, andThen_next, ht]⟩

end Sys2Proof.Proofs
